-- ==== Sys2Proof/Word.lean ====
section
/-! DEFINITION. The word types of GFMC (00_scope.md R6, R7): every value is unsigned, bit 0 is the least significant. -/

namespace Sys2Proof

/-- A one-bit value: a flag, an opcode, a control port. -/
abbrev Bit := BitVec 1

/-- A Byte, "an 8-bit unsigned value, element of GF(2^8)" (R2). -/
abbrev Byte := BitVec 8

/-- A 32-bit port word: operand x, a packed column, the response (R6). -/
abbrev Word := BitVec 32

/-- A request bundle `req[40:0] = {in_op, in_y, in_x}` (R60). -/
abbrev Bundle := BitVec 41

end Sys2Proof
end

