-- ==== Sys2Proof/Syntax.lean ====
section
/-! DEFINITION. The two operations of GFMC, one constructor per row of the opcode table (30_encoding.md R62).
XTIME is only another spelling of GMUL x, 0x02 (R67); it is a statement of Machine/Assembler.lean. -/

namespace Sys2Proof

/-- One request as `Decode` of R62 gives it: the operation with the operands that take part in its result. -/
inductive Instr where
  /-- GMUL a, b (R83): the product of two Bytes in GF(2^8). -/
  | gmul (a b : Byte)
  /-- MIXCOL c (R102): the MixColumns matrix applied to one packed column. -/
  | mixcol (c : Word)
  deriving DecidableEq, Repr

end Sys2Proof
end

