-- ==== Sys2Proof/Machine/Ports.lean ====
section
/-! DEFINITION. The ports of one copy of GFMC (10_state.md R28), as plain data. -/

namespace Sys2Proof.Machine

/-- The inputs sampled at one rising edge, all of them plain bits (10_state.md section 6). -/
structure Inputs where
  rst : Bit
  inValid : Bit
  inOp : Bit
  inX : Word
  inY : Byte
  deriving DecidableEq, Repr

/-- What the host drives on the input ports at one rising edge. `none` is a port that does not carry a defined 0 or 1 on
every bit: undriven, unknown, or driven by two sources at once (70_reset_and_hazards.md R150; log entry 3). -/
structure Drive where
  rst : Option Bit
  inValid : Option Bit
  inOp : Option Bit
  inX : Option Word
  inY : Option Byte
  deriving DecidableEq, Repr

/-- The output ports (R28). They are the registers themselves (R31). -/
structure Outputs where
  outValid : Bit
  outData : Word
  deriving DecidableEq, Repr

/-- The drive that carries exactly the given bits. -/
def Inputs.drive (i : Inputs) : Drive :=
  { rst := some i.rst, inValid := some i.inValid, inOp := some i.inOp, inX := some i.inX, inY := some i.inY }

end Sys2Proof.Machine
end

