-- ==== Sys2Proof/WellFormed.lean ====
section
/-! DEFINITION. What is well formed: every instruction (30_encoding.md R65), and of what the host drives exactly what
70_reset_and_hazards.md R150 asks for. -/

namespace Sys2Proof

/-- R65: no encoding is illegal or reserved; every operand value is a request. -/
def Instr.wellFormed : Instr → Bool
  | .gmul _ _ => true
  | .mixcol _ => true

/-- A number is a request bundle if it fits the 41 bits of R60 and R61. -/
def isBundle (w : Nat) : Bool := decide (w < 2 ^ 41)

/-- R150: `rst` and `in_valid` carry a defined value always; `in_op`, `in_x` and `in_y` do when `in_valid = 1`. -/
def Machine.Drive.defined (d : Drive) : Bool :=
  d.rst.isSome &&
  match d.inValid with
  | none => false
  | some v => v == 0 || (d.inOp.isSome && d.inX.isSome && d.inY.isSome)

end Sys2Proof
end

