-- ==== Sys2Proof/Decode.lean ====
section
/-! DEFINITION. The one request format (30_encoding.md R60, R61), the decoder of R62 and an encoder. -/

namespace Sys2Proof

/-- R60: `req = {in_op, in_y, in_x}`. -/
def bundleOf (op : Bit) (y : Byte) (x : Word) : Bundle := op ++ y ++ x

/-- `op = req[40]` (R60). -/
def reqOp (req : Bundle) : Bit := req.extractLsb' 40 1

/-- `y = req[39:32]` (R60). -/
def reqY (req : Bundle) : Byte := req.extractLsb' 32 8

/-- `x = req[31:0]` (R60). -/
def reqX (req : Bundle) : Word := req.extractLsb' 0 32

/-- `Decode` of R62, total on the 2^41 bundles. The ignored bits of R65 are dropped. -/
def decode (req : Bundle) : Instr :=
  if reqOp req = 0 then .gmul (req.extractLsb' 0 8) (req.extractLsb' 32 8)
  else .mixcol (req.extractLsb' 0 32)

/-- The bundle of an instruction with chosen ignored bits (R65): `hi` in `req[31:8]` of a GMUL, `y` in `req[39:32]` of a MIXCOL. -/
def encodeWith (hi : BitVec 24) (y : Byte) : Instr → Bundle
  | .gmul a b => bundleOf 0 b (hi ++ a)
  | .mixcol c => bundleOf 1 y c

/-- The canonical bundle: 0 in every ignored bit, as the assembler of R66 writes it. -/
def encode (i : Instr) : Bundle := encodeWith 0 0 i

/-- Why a number is not a request. -/
inductive DecodeError where
  /-- It does not fit the 41 bits of the one format (R61). -/
  | notABundle
  deriving DecidableEq, Repr

/-- The decoder on any number whatever: the 41-bit bundles decode (R62, R65), anything longer is rejected by name. -/
def decodeNat (w : Nat) : Except DecodeError Instr :=
  if isBundle w then .ok (decode (BitVec.ofNat 41 w)) else .error .notABundle

/-- The instruction the decoder reads from the bits `w`, numbered as the opcode table numbers them. GFMC has one format of
41 bits (R61), so the number of bits given does not choose between lengths. -/
def decodeTableWord (_nbits w : Nat) : Option Instr :=
  match decodeNat w with
  | .ok i => some i
  | .error _ => none

end Sys2Proof
end

