-- ==== Sys2Proof/Machine/Field.lean ====
section
/-! DEFINITION. Arithmetic of GF(2^8) with the polynomial 0x11B (00_scope.md R2; 40_gf_multiply.md R80 to R82). -/

namespace Sys2Proof.Machine

/-- R82: multiplication by 2. The shift is truncated to 8 bits before the XOR with 0x1B. -/
def xtime (x : Byte) : Byte :=
  if x.getLsbD 7 then (x <<< 1) ^^^ 0x1B#8 else x <<< 1

/-- One step of R81 for bit `i` of `b`: the accumulator p and the shifted operand t. -/
def gfMulStep (b : Byte) (pt : Byte × Byte) (i : Nat) : Byte × Byte :=
  (if b.getLsbD i then pt.1 ^^^ pt.2 else pt.1, xtime pt.2)

/-- R81: `GMul` in its fixed-step form, exactly 8 steps, one per bit of `b`. -/
def gfMul (a b : Byte) : Byte :=
  ((List.range 8).foldl (gfMulStep b) (0, a)).1

/-- R80: `GMul_loop`, "repeat until b is zero", with a bound on the number of rounds (log entry 10). -/
def gfMulLoop : Nat → Byte → Byte → Byte → Byte
  | 0, p, _, _ => p
  | n + 1, p, a, b =>
    if b = 0 then p
    else
      let p' := if b.getLsbD 0 then p ^^^ a else p
      let carry := a.getLsbD 7
      let a' := a <<< 1
      let a'' := if carry then a' ^^^ 0x1B#8 else a'
      gfMulLoop n p' a'' (b >>> 1)

/-- R80: the product of the polynomials a(x) and b(x) over GF(2), bit k the coefficient of x^k, not yet reduced. -/
def polyMul (a b : Byte) : BitVec 16 :=
  (List.range 8).foldl (fun p i => if b.getLsbD i then p ^^^ (a.setWidth 16 <<< i) else p) 0

/-- R2, R80: reduction modulo x^8+x^4+x^3+x+1 (0x11B) of a polynomial of degree at most 14, highest term first. -/
def polyMod (v : BitVec 16) : Byte :=
  (([14, 13, 12, 11, 10, 9, 8] : List Nat).foldl
    (fun r i => if r.getLsbD i then r ^^^ (0x11B#16 <<< (i - 8)) else r) v).setWidth 8

end Sys2Proof.Machine
end

