-- ==== Sys2Proof/Machine/Operands.lean ====
section
/-! DEFINITION. The operand forms: the byte lanes of a column word (00_scope.md R9, 20_memory.md R41), the low byte that carries
a GMUL factor (R42), and the widening of a product into the response (R30). -/

namespace Sys2Proof.Machine

/-- R9: `lane_i(w) = w[31-8i : 24-8i]`, so lane 0 is bits 31:24. -/
def lane (i : Fin 4) (w : Word) : Byte := w.extractLsb' (24 - 8 * i.val) 8

/-- R9: `pack(c0, c1, c2, c3) = {c0, c1, c2, c3}`. -/
def pack (c0 c1 c2 c3 : Byte) : Word := c0 ++ c1 ++ c2 ++ c3

/-- R42: a GMUL factor on the x port is `in_x[7:0]`. -/
def lowByte (x : Word) : Byte := x.extractLsb' 0 8

/-- R8: `zext_32` of a Byte, the only widening there is (R30). -/
def zext32 (b : Byte) : Word := b.setWidth 32

end Sys2Proof.Machine
end

