-- ==== Sys2Proof/Machine/Flags.lean ====
section
/-! DEFINITION. The only flag, `out_valid` (10_state.md R24): the value each kind of edge gives it. -/

namespace Sys2Proof.Machine

/-- R24: "It becomes 1 at an edge that accepts a request." -/
def outValidAccepted : Bit := 1

/-- R24: it becomes 0 at an edge with `rst = 1`. -/
def outValidReset : Bit := 0

/-- R24: it becomes 0 at an edge with `in_valid = 0`. -/
def outValidIdle : Bit := 0

end Sys2Proof.Machine
end

