-- ==== Sys2Proof/Config.lean ====
section
/-! DEFINITION. What the spec leaves open: the power-up values (10_state.md R34, U1, D13).
The other open point, N_INST (00_scope.md R6, D16), is the argument `n` of `Machine.System n`. -/

namespace Sys2Proof

/-- FREE VALUE (log entry 5): `out_valid` of copy k at power-up, which R34 leaves unspecified. No body, so no proof sees a value. -/
opaque Config.powerUpValid : Nat → Bit

/-- FREE VALUE (log entry 5): `out_data` of copy k at power-up, which R34 leaves unspecified. No body, so no proof sees a value. -/
opaque Config.powerUpData : Nat → Word

/-- R6, D16: the number of copies in a system may be any N_INST >= 1. -/
def Config.validCount (n : Nat) : Bool := decide (1 ≤ n)

end Sys2Proof
end

