-- ==== Sys2Proof/Machine/State.lean ====
section
/-! DEFINITION. The state of one copy of GFMC (10_state.md R21) with the drives the host has scheduled, and why a step can stop. -/

namespace Sys2Proof.Machine

/-- The whole architectural state is `outValid` and `outData` (R21). `stimulus` is the model's own field, not the spec's:
what the host drives at the coming rising edges of `clk`, the next edge first (log entry 1). -/
structure State where
  /-- R24: 1 after an edge that accepted a request, otherwise 0. -/
  outValid : Bit
  /-- R21: the result of the most recently accepted request. -/
  outData : Word
  /-- The input ports at the coming edges (R28); empty while `clk` does not toggle (R126). -/
  stimulus : List Drive
  deriving DecidableEq, Repr

/-- Faults. GFMC has none: no request raises an exception for any operand value (60_exceptions.md R120), and no behaviour of
93_implementation_defined.md is a fault or a stuck state. Nothing can raise a value of this type. -/
inductive Fault where
  deriving DecidableEq, Repr

/-- Refusals. The step raises the three undefined-input ones, where R150 says that a model refuses the stimulus (U4). Safe: the
model stops where the spec gives no meaning. -/
inductive Refusal where
  /-- For an arm of `exec` without a meaning; no arm raises it in this model. Safe. -/
  | notModelled (mnemonic : String)
  /-- `rst` carries no defined value at an edge (R150). Raised by the step. Safe. -/
  | undefinedRst
  /-- `in_valid` carries no defined value at an edge (R150). Raised by the step. Safe. -/
  | undefinedInValid
  /-- `in_valid = 1` and `in_op`, `in_x` or `in_y` carries no defined value (R150). Raised by the step. Safe. -/
  | undefinedRequest
  deriving DecidableEq, Repr

/-- R33: the state after an edge with `rst = 1`; no further edge is scheduled (log entry 1). -/
def State.reset : State := { outValid := 0, outData := 0, stimulus := [] }

/-- R34: copy k at power-up, before the first reset: both registers are free draws (log entry 5). -/
def State.powerUp (k : Nat) : State :=
  { outValid := Config.powerUpValid k, outData := Config.powerUpData k, stimulus := [] }

end Sys2Proof.Machine
end

