-- ==== Sys2Proof/Machine/Ops.lean ====
section
/-! DEFINITION. The shared operations: what one rising edge is (10_state.md R29, 70_reset_and_hazards.md R150) and what each kind
of edge does to the registers. GFMC has no memory (R40), no exception entry and no return from one (R120, R124), so there is no
operation for either. -/

namespace Sys2Proof.Machine

/-- What a copy does at one rising edge. -/
inductive EdgeAction where
  /-- `rst = 1` (R33, R140); it wins over a request (R123). -/
  | reset
  /-- `rst = 0` and `in_valid = 0`: nothing is requested. -/
  | idle
  /-- `rst = 0` and `in_valid = 1`: the bundle is accepted. -/
  | request (req : Bundle)
  /-- An input that R150 wants defined is not. -/
  | undefinedInput (r : Refusal)
  deriving DecidableEq, Repr

/-- Samples the ports at a rising edge. R150 is checked first: `rst` and `in_valid` always, and with `in_valid = 1` also `in_op`,
`in_x` and `in_y`, even at a reset edge (log entry 4). With `in_valid = 0` the other three are not read. -/
def Drive.sample (d : Drive) : EdgeAction :=
  match d.rst, d.inValid with
  | none, _ => .undefinedInput .undefinedRst
  | some _, none => .undefinedInput .undefinedInValid
  | some r, some v =>
    if v = 1 then
      match d.inOp, d.inX, d.inY with
      | some op, some x, some y => if r = 1 then .reset else .request (bundleOf op y x)
      | _, _, _ => .undefinedInput .undefinedRequest
    else if r = 1 then .reset
    else .idle

/-- What the next edge does; `none` while no edge is scheduled, that is while `clk` does not toggle (R126; log entry 2). -/
def State.nextAction (s : State) : Option EdgeAction := s.stimulus.head?.map Drive.sample

/-- The drive of the edge that is happening is used up. -/
def State.consume (s : State) : State := { s with stimulus := s.stimulus.tail }

/-- R29, reset branch; the values are R33's. -/
def State.resetEdge (s : State) : State := { s with outValid := outValidReset, outData := 0 }

/-- R29, idle branch: `out_data` is held. -/
def State.idleEdge (s : State) : State := { s with outValid := outValidIdle }

/-- R29, request branch: the request is accepted with the result `v`. -/
def State.accept (s : State) (v : Word) : State := { s with outValid := outValidAccepted, outData := v }

/-- R31: the output ports are the registers. Reading them changes nothing (R32). -/
def State.outputs (s : State) : Outputs := { outValid := s.outValid, outData := s.outData }

/-- The ports as the host drives them for one request `req` at an edge with `rst = 0` (R60, R66). -/
def requestDrive (req : Bundle) : Drive :=
  Inputs.drive { rst := 0, inValid := 1, inOp := reqOp req, inX := reqX req, inY := reqY req }

/-- The ports at an idle edge (R66, `IDLE`). -/
def idleDrive : Drive := Inputs.drive { rst := 0, inValid := 0, inOp := 0, inX := 0, inY := 0 }

/-- The ports at a reset edge (R66, `RESET`). -/
def resetDrive : Drive := Inputs.drive { rst := 1, inValid := 0, inOp := 0, inX := 0, inY := 0 }

/-- A program, one drive per edge, is loaded from outside the block (R23; log entry 6). -/
def State.load (s : State) (program : List Drive) : State := { s with stimulus := program }

end Sys2Proof.Machine
end

