-- ==== Sys2Proof/Machine/Gmul.lean ====
section
/-! DEFINITION. The GMUL operation (40_gf_multiply.md R83). -/

namespace Sys2Proof.Machine

/-- R83: `zext_32(GMul(a, b))`. -/
def gmulResult (a b : Byte) : Word := zext32 (gfMul a b)

/-- R83: the accepted GMUL request; no exception for any operand (R120). -/
def execGmul (a b : Byte) (s : State) : Host.Outcome State Fault Refusal :=
  .next (s.accept (gmulResult a b))

end Sys2Proof.Machine
end

