-- ==== Sys2Proof/Machine/Column.lean ====
section
/-! DEFINITION. The MixColumns column function (41_mixcolumns.md R100), its matrix form (R101) and the test oracle that inverts
it (R104). -/

namespace Sys2Proof.Machine

/-- R100: the column transform, by doubling and XOR. -/
def mixCol (w : Word) : Word :=
  let a0 := lane 0 w
  let a1 := lane 1 w
  let a2 := lane 2 w
  let a3 := lane 3 w
  let b0 := xtime a0
  let b1 := xtime a1
  let b2 := xtime a2
  let b3 := xtime a3
  let r0 := b0 ^^^ a1 ^^^ b1 ^^^ a2 ^^^ a3
  let r1 := b1 ^^^ a2 ^^^ b2 ^^^ a3 ^^^ a0
  let r2 := b2 ^^^ a3 ^^^ b3 ^^^ a0 ^^^ a1
  let r3 := b3 ^^^ a0 ^^^ b0 ^^^ a1 ^^^ a2
  pack r0 r1 r2 r3

/-- One row of a circulant matrix over GF(2^8) applied to the column `w`: coefficients k0 to k3 at lanes i, i+1, i+2, i+3 mod 4. -/
def circulantRow (k0 k1 k2 k3 : Byte) (i : Fin 4) (w : Word) : Byte :=
  gfMul k0 (lane i w) ^^^ gfMul k1 (lane (i + 1) w) ^^^ gfMul k2 (lane (i + 2) w) ^^^ gfMul k3 (lane (i + 3) w)

/-- R104: the inverse MixColumns matrix. A test oracle: GFMC does not compute it, and its coefficients are marked by the spec as
general knowledge (G1; log entry 11). -/
def invMixCol (w : Word) : Word :=
  pack (circulantRow 0x0E 0x0B 0x0D 0x09 0 w) (circulantRow 0x0E 0x0B 0x0D 0x09 1 w)
    (circulantRow 0x0E 0x0B 0x0D 0x09 2 w) (circulantRow 0x0E 0x0B 0x0D 0x09 3 w)

end Sys2Proof.Machine
end

