-- ==== Sys2Proof/Machine/Mixcol.lean ====
section
/-! DEFINITION. The MIXCOL operation (41_mixcolumns.md R102). -/

namespace Sys2Proof.Machine

/-- R102: the accepted MIXCOL request; no exception for any column (R120). -/
def execMixcol (c : Word) (s : State) : Host.Outcome State Fault Refusal :=
  .next (s.accept (mixCol c))

end Sys2Proof.Machine
end

