-- ==== Sys2Proof/Machine/Dispatch.lean ====
section
/-! DEFINITION. The dispatch of 10_state.md R30, one arm per operation. -/

namespace Sys2Proof.Machine

def exec (i : Instr) (s : State) : Host.Outcome State Fault Refusal :=
  match i with
  | .gmul a b => Sys2Proof.Machine.execGmul a b s
  | .mixcol c => Sys2Proof.Machine.execMixcol c s

end Sys2Proof.Machine
end

