-- ==== Sys2Proof/Machine/Step.lean ====
section
/-! DEFINITION. One step of one copy: one rising edge of `clk` (10_state.md R29). -/

namespace Sys2Proof.Machine

/-- R29. With no edge scheduled the state is held (R126). -/
def step (s : State) : Host.Outcome State Fault Refusal :=
  match s.nextAction with
  | none => .next s
  | some (.undefinedInput r) => .refused r
  | some .reset => .next s.consume.resetEdge
  | some .idle => .next s.consume.idleEdge
  | some (.request req) => exec (decode req) s.consume

/-- `s` with the bundle `w` on the ports at its next edge (`rst = 0`, `in_valid = 1`), in place of what was scheduled for that
edge: GFMC fetches nothing (20_memory.md R48), so this stands for the host presenting the request (log entry 6). -/
def State.withFetchWord (s : State) (_nbits w : Nat) : State :=
  { s with stimulus := requestDrive (BitVec.ofNat 41 w) :: s.stimulus.tail }

end Sys2Proof.Machine
end

