-- ==== Sys2Proof/Machine/Assembler.lean ====
section
/-! DEFINITION. The stimulus language of 30_encoding.md R66 and R67: its statements, what each drives at its edge, and the
disassembler. -/

namespace Sys2Proof.Machine

/-- The statements of R66, one per clock edge, and the pseudo-instruction of R67. -/
inductive Statement where
  | gmul (a b : Byte)
  | mixcolBytes (c0 c1 c2 c3 : Byte)
  | mixcolWord (w : Word)
  | idle
  | reset
  | drive (r v o : Bit) (x : Word) (y : Byte)
  | xtime (x : Byte)
  deriving DecidableEq, Repr

/-- R66: what a statement drives. Apart from `DRIVE`, 0 in every bit a statement leaves unused. R67: `XTIME x` is `GMUL x, 0x02`. -/
def assemble : Statement → Inputs
  | .gmul a b => { rst := 0, inValid := 1, inOp := 0, inX := zext32 a, inY := b }
  | .mixcolBytes c0 c1 c2 c3 => { rst := 0, inValid := 1, inOp := 1, inX := pack c0 c1 c2 c3, inY := 0 }
  | .mixcolWord w => { rst := 0, inValid := 1, inOp := 1, inX := w, inY := 0 }
  | .idle => { rst := 0, inValid := 0, inOp := 0, inX := 0, inY := 0 }
  | .reset => { rst := 1, inValid := 0, inOp := 0, inX := 0, inY := 0 }
  | .drive r v o x y => { rst := r, inValid := v, inOp := o, inX := x, inY := y }
  | .xtime x => { rst := 0, inValid := 1, inOp := 0, inX := zext32 x, inY := 0x02 }

/-- R60: the bundle on the ports. -/
def Inputs.bundle (i : Inputs) : Bundle := bundleOf i.inOp i.inY i.inX

/-- R67: a disassembler prints `{0, 0x02, zext_32(x)}` as `GMUL x, 0x02`, never as XTIME. DESIGN CHOICE where R67 is silent (log
entry 18): every other GMUL prints as GMUL too, a MIXCOL prints in its word form, and non-zero ignored bits (R65) are dropped, so
that such a bundle is not printed as DRIVE. -/
def disassemble (req : Bundle) : Statement :=
  match decode req with
  | .gmul a b => .gmul a b
  | .mixcol c => .mixcolWord c

/-- R66: a line of a program. The label only names its edge for the reader; the comment says nothing to the block. -/
structure Line where
  label : Option String
  statement : Statement
  comment : Option String
  deriving DecidableEq, Repr

/-- R66: a program drives one edge per line; labels and comments drive nothing. -/
def assembleProgram (lines : List Line) : List Drive := lines.map fun l => (assemble l.statement).drive

end Sys2Proof.Machine
end

