-- ==== Sys2Proof/Machine/Run.lean ====
section
/-! DEFINITION. Several edges in a row, and what the host sees on the output ports after each (00_scope.md R11, 20_memory.md R47). -/

namespace Sys2Proof.Machine

/-- `k` steps, ending at the first refusal. -/
def run : Nat → State → Host.Outcome State Fault Refusal
  | 0, s => .next s
  | k + 1, s =>
    match step s with
    | .next t => run k t
    | .fault r => .fault r
    | .refused r => .refused r

/-- R11, R31: the output ports after each of the next `k` edges, ending at the first refusal. -/
def observe : Nat → State → List Outputs
  | 0, _ => []
  | k + 1, s =>
    match step s with
    | .next t => t.outputs :: observe k t
    | .fault _ => []
    | .refused _ => []

/-- R47: the responses the host sees over all the scheduled edges: `out_data` wherever `out_valid = 1`. -/
def responses (s : State) : List Word :=
  (observe s.stimulus.length s).filterMap fun o => if o.outValid = 1 then some o.outData else none

/-- The bundle of an accepted request, at an edge that accepts one (00_scope.md section 6, "accepted"). -/
def Drive.accepted (d : Drive) : Option Bundle :=
  match d.sample with
  | .request req => some req
  | .reset => none
  | .idle => none
  | .undefinedInput _ => none

/-- R47: the requests accepted over the scheduled edges, in order. -/
def acceptedRequests (program : List Drive) : List Bundle := program.filterMap Drive.accepted

end Sys2Proof.Machine
end

