-- ==== Sys2Proof/Machine/System.lean ====
section
/-! DEFINITION. A system of `n` copies of GFMC on one clock (10_state.md R20, 60_exceptions.md R127). `n` is the spec's open
parameter N_INST (00_scope.md R6; log entry 8). -/

namespace Sys2Proof.Machine

/-- The registers of every copy, numbered by the host from 0, and what the host drives on every copy's ports at the coming edges
of the shared `clk`. -/
structure System (n : Nat) where
  outputs : Vector Outputs n
  stimulus : List (Vector Drive n)
  deriving DecidableEq, Repr

/-- Copy i as a machine of its own: its registers and its ports. -/
def System.view {n : Nat} (S : System n) (i : Fin n) : State :=
  { outValid := S.outputs[i].outValid, outData := S.outputs[i].outData, stimulus := S.stimulus.map fun ds => ds[i] }

/-- The registers a copy has after its step. -/
def outputsAfter (o : Host.Outcome State Fault Refusal) (before : Outputs) : Outputs :=
  match o with
  | .next t => t.outputs
  | .fault _ => before
  | .refused _ => before

/-- Why copies refuse their ports at the next edge (R150), in the host's numbering. -/
def System.refusals {n : Nat} (S : System n) : List Refusal :=
  (List.finRange n).filterMap fun i =>
    match step (S.view i) with
    | .refused r => some r
    | .next _ => none
    | .fault _ => none

/-- R127: "All of them step on the same `clk` edges." Each copy's step reads only its own inputs and its own state. DESIGN
CHOICE (log entry 9): where a copy's ports are undefined the edge is refused for every copy, for the first such copy's reason. -/
def System.step {n : Nat} (S : System n) : Host.Outcome (System n) Fault Refusal :=
  match S.refusals with
  | r :: _ => .refused r
  | [] => .next { outputs := Vector.ofFn fun i : Fin n => outputsAfter (Machine.step (S.view i)) S.outputs[i],
                  stimulus := S.stimulus.tail }

/-- `k` edges of the system, ending at the first refusal. -/
def System.run {n : Nat} : Nat → System n → Host.Outcome (System n) Fault Refusal
  | 0, S => .next S
  | k + 1, S =>
    match S.step with
    | .next T => System.run k T
    | .fault r => .fault r
    | .refused r => .refused r

/-- R11, R31: every copy's output ports after each of the next `k` edges, ending at the first refusal. -/
def System.observe {n : Nat} : Nat → System n → List (Vector Outputs n)
  | 0, _ => []
  | k + 1, S =>
    match S.step with
    | .next T => T.outputs :: System.observe k T
    | .fault _ => []
    | .refused _ => []

/-- The host's drives for every copy at the coming edges, in place of what was scheduled (log entry 6). -/
def System.load {n : Nat} (S : System n) (program : List (Vector Drive n)) : System n := { S with stimulus := program }

/-- R33: every copy after an edge with `rst = 1`. -/
def System.reset (n : Nat) : System n := { outputs := Vector.replicate n { outValid := 0, outData := 0 }, stimulus := [] }

/-- R34: every copy at power-up; copy k holds its own free draws. -/
def System.powerUp (n : Nat) : System n :=
  { outputs := Vector.ofFn fun k : Fin n => (State.powerUp k.val).outputs, stimulus := [] }

/-- R127, last row: what reaches one copy's ports at an edge with `rst = 0` when workers of the host present bundles. One: that
request, as the row asks. Two or more: the row and R150 put that outside the model; DEDUCED (log entry 3) that the ports then carry no
defined value, which the copy refuses. None: DESIGN CHOICE (log entry 19), the host holds `in_valid = 0`. -/
def portDrive : List Bundle → Drive
  | [] => idleDrive
  | [req] => requestDrive req
  | _ :: _ :: _ => { rst := some 0, inValid := some 1, inOp := none, inX := none, inY := none }

end Sys2Proof.Machine
end

