-- ==== Sys2Proof/Machine/Matrix.lean ====
section
/-! DEFINITION. The host's side of a matrix: its layout (20_memory.md R43), the procedure that transforms it by four MIXCOL
requests on one copy or spread over several (41_mixcolumns.md R106), and one way to spread a batch over copies (R108, 70_reset_and_hazards.md R149). -/

namespace Sys2Proof.Machine

/-- R43: a 4 by 4 byte grid stored row-major as 16 bytes. -/
abbrev Matrix := Vector Byte 16

/-- R43: byte k is `M[k div 4][k mod 4]`, so row i, column j is byte 4i + j. -/
def Matrix.entry (m : Matrix) (i j : Fin 4) : Byte := m[4 * i.val + j.val]

/-- R43, R106: column j, packed lane 0 first. -/
def Matrix.column (m : Matrix) (j : Fin 4) : Word := pack (m.entry 0 j) (m.entry 1 j) (m.entry 2 j) (m.entry 3 j)

/-- R106 step 1: `MIXCOL` for each column, in the order the host chose. -/
def matrixRequests (m : Matrix) (order : List (Fin 4)) : List Drive :=
  order.map fun j => (assemble (.mixcolWord (m.column j))).drive

/-- R106 step 3: `T[i][j] <- lane_i(r)` for i = 0..3. -/
def Matrix.writeColumn (t : Matrix) (j : Fin 4) (r : Word) : Matrix :=
  (((t.set (4 * 0 + j.val) (lane 0 r)).set (4 * 1 + j.val) (lane 1 r)).set (4 * 2 + j.val) (lane 2 r)).set (4 * 3 + j.val)
    (lane 3 r)

/-- R106 steps 2 and 3: after each request's edge the host stores `out_data` into the column it asked for (R47: matched by edge). -/
def collectColumns (t : Matrix) (order : List (Fin 4)) (seen : List Outputs) : Matrix :=
  (order.zip seen).foldl (fun t jo => t.writeColumn jo.1 jo.2.outData) t

/-- R106: the whole procedure on one copy in state `s`, into the host's own result matrix `t`. `m` is not written (C1). -/
def hostTransform (m : Matrix) (order : List (Fin 4)) (s : State) (t : Matrix) : Matrix :=
  collectColumns t order (observe order.length (s.load (matrixRequests m order)))

/-- R106, R108: how the host spreads one matrix's requests: edge by edge, the column each copy is asked for, or none (an idle edge
of that copy). -/
abbrev ColumnPlan (n : Nat) := List (Vector (Option (Fin 4)) n)

/-- The columns a plan asks for, edge by edge and within an edge copy by copy. -/
def planColumns {n : Nat} (plan : ColumnPlan n) : List (Fin 4) := plan.flatMap fun row => row.toList.filterMap id

/-- R106 step 1 on one copy's ports at one edge: the `MIXCOL` of the planned column, or `IDLE`. -/
def plannedDrive (m : Matrix) : Option (Fin 4) → Drive
  | some j => (assemble (.mixcolWord (m.column j))).drive
  | none => idleDrive

/-- R106 step 1 over a whole plan. -/
def planRequests {n : Nat} (m : Matrix) (plan : ColumnPlan n) : List (Vector Drive n) :=
  plan.map fun row => row.map (plannedDrive m)

/-- R106 steps 2 and 3 for one copy after one edge: the column it was asked for is stored, and nothing where it was asked for none. -/
def storePlanned (t : Matrix) (jo : Option (Fin 4) × Outputs) : Matrix :=
  match jo.1 with
  | some j => t.writeColumn j jo.2.outData
  | none => t

/-- R106 steps 2 and 3 for every copy after one edge. -/
def collectEdge {n : Nat} (t : Matrix) (row : Vector (Option (Fin 4)) n) (seen : Vector Outputs n) : Matrix :=
  (row.toList.zip seen.toList).foldl storePlanned t

/-- R106 steps 2 and 3 over a whole plan; the host matches a response to its request by copy and edge (R47). -/
def collectPlan {n : Nat} (t : Matrix) (plan : ColumnPlan n) (seen : List (Vector Outputs n)) : Matrix :=
  (plan.zip seen).foldl (fun t rs => collectEdge t rs.1 rs.2) t

/-- R106 on several copies: "in any order, to one instance or to several". The system may be in any state; the results go into the
host's own matrix `t`, and `m` is not written (C1). -/
def hostTransformOn {n : Nat} (m : Matrix) (plan : ColumnPlan n) (S : System n) (t : Matrix) : Matrix :=
  collectPlan t plan (System.observe plan.length (S.load (planRequests m plan)))

/-- R43, R106: the columns of a batch, matrix after matrix. -/
def batchColumns (ms : List Matrix) : List Word :=
  ms.flatMap fun m => [m.column 0, m.column 1, m.column 2, m.column 3]

/-- R149: the edges a batch of `c` columns takes on `n` copies fully used, ceil(c / n). -/
def batchEdges (n c : Nat) : Nat := (c + n - 1) / n

/-- One edge of the batch schedule: copy i takes column e * n + i, and idles where there is none (R108; log entry 13). -/
def batchEdge (n : Nat) (cols : List Word) (e : Nat) : Vector Drive n :=
  Vector.ofFn fun i : Fin n =>
    match cols[e * n + i.val]? with
    | some c => (assemble (.mixcolWord c)).drive
    | none => idleDrive

/-- The batch schedule over `n` copies, edge by edge. -/
def batchStimulus (n : Nat) (cols : List Word) : List (Vector Drive n) :=
  (List.range (batchEdges n cols.length)).map (batchEdge n cols)

end Sys2Proof.Machine
end

