-- ==== Sys2Proof/Machine/Reference.lean ====
section
/-! DEFINITION. `Execute` of 10_state.md R30 straight from the ports, and the result of a decoded request, to read the machine against. -/

namespace Sys2Proof.Machine

/-- R30: `Execute(op, x, y)`, one request's 32-bit result straight from the ports. -/
def execute (op : Bit) (x : Word) (y : Byte) : Word :=
  if op = 0 then zext32 (gfMul (lowByte x) y) else mixCol x

/-- The 32-bit result of a decoded request (R83, R102). -/
def resultOf : Instr → Word
  | .gmul a b => gmulResult a b
  | .mixcol c => mixCol c

end Sys2Proof.Machine
end

