-- ==== Sys2Proof/Safety.lean ====
section
/-! DEFINITION. What a safe run is. Nothing in GFMC faults (60_exceptions.md R120), so a run is safe when the host keeps to R150 at
every edge; and its outputs may be relied on once R143's premise holds. -/

namespace Sys2Proof.Machine

/-- R150: the host drives defined values at every scheduled edge. -/
def State.driven (s : State) : Prop := ∀ d ∈ s.stimulus, d.defined = true

/-- R150 for every copy of a system. -/
def System.driven {n : Nat} (S : System n) : Prop := ∀ ds ∈ S.stimulus, ∀ i : Fin n, ds[i].defined = true

/-- An edge that fixes both registers whatever they held: a reset edge or an accepted request (70_reset_and_hazards.md R143). -/
def Drive.settles (d : Drive) : Bool :=
  match d.sample with
  | .reset => true
  | .request _ => true
  | .idle => false
  | .undefinedInput _ => false

/-- R143: among the next `k` scheduled edges there is one that fixes both registers. -/
def State.settledWithin (s : State) (k : Nat) : Bool := (s.stimulus.take k).any Drive.settles

end Sys2Proof.Machine
end

