-- ==== Sys2Proof/Certificates/Slice0/Obligations.lean ====
section
/-! DEFINITION. The statements about GFMC for the provers, each from a numbered rule of the spec. -/

open Sys2Proof Sys2Proof.Machine

/-! ## Encoding -/

/-- 30_encoding.md R62: `Decode(req)`, selected by `req[40]` alone and total. -/
def Obligations.DecodeByOpcodeBit : Prop :=
  ∀ req : Bundle,
    decode req =
      if req.getLsbD 40 = false then .gmul (req.extractLsb' 0 8) (req.extractLsb' 32 8)
      else .mixcol (req.extractLsb' 0 32)

/-- Decoding an encoding gives the instruction back, every operand at every value and every ignored bit at every value. -/
def Obligations.DecodeOfEncode : Prop :=
  ∀ (i : Instr) (hi : BitVec 24) (y : Byte),
    decode (encodeWith hi y i) = i ∧
    ∀ nbits : Nat, decodeTableWord nbits (encodeWith hi y i).toNat = some i

/-- Encoding a decoded bundle with the bundle's own ignored bits gives the bundle back: no bundle has a second reading. -/
def Obligations.EncodeOfDecode : Prop :=
  ∀ req : Bundle, encodeWith (req.extractLsb' 8 24) (req.extractLsb' 32 8) (decode req) = req

/-- 30_encoding.md R65: every bundle is a request that the step accepts, the two halves by opcode; the ignored bits, and every
bundle bit at an edge with `in_valid = 0`, have no effect. -/
def Obligations.EveryBundleIsARequest : Prop :=
  (∀ req : Bundle,
    (reqOp req = 0 ↔ ∃ a b, decode req = .gmul a b) ∧
    (reqOp req = 1 ↔ ∃ c, decode req = .mixcol c) ∧
    ∀ (s : State) (rest : List Drive), ∃ t, step (s.load (requestDrive req :: rest)) = .next t ∧ t.outValid = 1) ∧
  (∀ (req req' : Bundle) (s : State) (rest : List Drive), reqOp req = 0 → reqOp req' = 0 →
    req.extractLsb' 0 8 = req'.extractLsb' 0 8 → reqY req = reqY req' →
    step (s.load (requestDrive req :: rest)) = step (s.load (requestDrive req' :: rest))) ∧
  (∀ (req req' : Bundle) (s : State) (rest : List Drive), reqOp req = 1 → reqOp req' = 1 → reqX req = reqX req' →
    step (s.load (requestDrive req :: rest)) = step (s.load (requestDrive req' :: rest))) ∧
  (∀ (s : State) (rest : List Drive) (i j : Inputs), i.rst = j.rst → i.inValid = 0 → j.inValid = 0 →
    step (s.load (i.drive :: rest)) = step (s.load (j.drive :: rest)))

/-- A few words written out from the encodings of 30_encoding.md, the worked table under R67. -/
def Obligations.WorkedEncodings : Prop :=
  decode 0x08300000057#41 = .gmul 0x57 0x83 ∧
  decode 0x00200000080#41 = .gmul 0x80 0x02 ∧
  decode 0x100DB135345#41 = .mixcol 0xDB135345 ∧
  decode 0x10000000000#41 = .mixcol 0x00000000

/-- 30_encoding.md R66: what each statement drives at its edge. -/
def Obligations.StatementDrives : Prop :=
  (∀ a b : Byte, assemble (.gmul a b) = ⟨0, 1, 0, zext32 a, b⟩) ∧
  (∀ c0 c1 c2 c3 : Byte, assemble (.mixcolBytes c0 c1 c2 c3) = ⟨0, 1, 1, pack c0 c1 c2 c3, 0x00⟩ ∧
    assemble (.mixcolBytes c0 c1 c2 c3) = assemble (.mixcolWord (pack c0 c1 c2 c3))) ∧
  (∀ w : Word, assemble (.mixcolWord w) = ⟨0, 1, 1, w, 0x00⟩) ∧
  assemble .idle = ⟨0, 0, 0, 0x00000000, 0x00⟩ ∧
  assemble .reset = ⟨1, 0, 0, 0x00000000, 0x00⟩ ∧
  (∀ (r v o : Bit) (x : Word) (y : Byte), assemble (.drive r v o x y) = ⟨r, v, o, x, y⟩)

/-- 30_encoding.md R67: `XTIME x` assembles to `GMUL x, 0x02`, and a disassembler never prints XTIME. -/
def Obligations.XtimeIsAPseudoInstruction : Prop :=
  (∀ x : Byte,
    assemble (.xtime x) = assemble (.gmul x 0x02) ∧
    (assemble (.xtime x)).bundle = bundleOf 0 0x02 (zext32 x) ∧
    disassemble (bundleOf 0 0x02 (zext32 x)) = .gmul x 0x02) ∧
  ∀ (req : Bundle) (x : Byte), disassemble req ≠ .xtime x

/-! ## The step -/

/-- A request on the ports at the next edge is decoded and run, with the edge used up; nothing else happens around `exec`. -/
def Obligations.StepRunsDecoded : Prop :=
  ∀ (s : State) (op : Bit) (x : Word) (y : Byte) (rest : List Drive),
    s.stimulus = ⟨some 0, some 1, some op, some x, some y⟩ :: rest →
    step s = exec (decode (bundleOf op y x)) { s with stimulus := rest }

/-- Presenting the bits of a table word at the next edge runs exactly the instruction the decoder reads from them. -/
def Obligations.PresentedWordRuns : Prop :=
  ∀ (s : State) (nbits w : Nat), w < 2 ^ 41 →
    ∃ i, decodeTableWord nbits w = some i ∧
      step (s.withFetchWord nbits w) = exec i { s with stimulus := s.stimulus.tail }

/-- 10_state.md R29, the whole step: for every state and every combination of input bits, this next state and no other outcome;
70_reset_and_hazards.md R150 is the boundary, so the inputs are plain bits here. -/
def Obligations.EdgeRule : Prop :=
  ∀ (s : State) (i : Inputs) (rest : List Drive), s.stimulus = i.drive :: rest →
    step s = .next
      (if i.rst = 1 then { outValid := 0, outData := 0x00000000, stimulus := rest }
       else if i.inValid = 1 then { outValid := 1, outData := execute i.inOp i.inX i.inY, stimulus := rest }
       else { outValid := 0, outData := s.outData, stimulus := rest })

/-- 10_state.md R30: `Execute`, what it ignores, and that the decoded route gives the same result. -/
def Obligations.ExecuteRule : Prop :=
  ∀ (op : Bit) (x : Word) (y : Byte),
    execute op x y = (if op = 0 then (gfMul (x.extractLsb' 0 8) y).setWidth 32 else mixCol x) ∧
    (∀ x' : Word, x'.extractLsb' 0 8 = x.extractLsb' 0 8 → execute 0 x' y = execute 0 x y) ∧
    (∀ y' : Byte, execute 1 x y' = execute 1 x y) ∧
    resultOf (decode (bundleOf op y x)) = execute op x y

/-- 70_reset_and_hazards.md R150 (U3, U4): an edge is refused exactly where an input that must be defined is not; with
`in_valid = 0` the other three inputs may be anything. A reset edge is no exception (log entry 4). -/
def Obligations.UndefinedInputsRefused : Prop :=
  (∀ (s : State) (d : Drive) (rest : List Drive), s.stimulus = d :: rest →
    ((∃ r, step s = .refused r) ↔
      ¬ (d.rst.isSome = true ∧ d.inValid.isSome = true ∧
        (d.inValid = some 1 → d.inOp.isSome = true ∧ d.inX.isSome = true ∧ d.inY.isSome = true)))) ∧
  (∀ (s : State) (r : Bit) (op op' : Option Bit) (x x' : Option Word) (y y' : Option Byte) (rest : List Drive),
    step (s.load (⟨some r, some 0, op, x, y⟩ :: rest)) = step (s.load (⟨some r, some 0, op', x', y'⟩ :: rest)))

/-- 60_exceptions.md R126 (log entry 2, the model's reading): while `clk` does not toggle the state is held. -/
def Obligations.NoEdgeHoldsState : Prop :=
  ∀ s : State, s.stimulus = [] → step s = .next s

/-- 60_exceptions.md R120: no request raises an exception, whatever the operands; each completes at its own edge. -/
def Obligations.NoException : Prop :=
  (∀ (i : Instr) (s : State), exec i s = .next { s with outValid := 1, outData := resultOf i }) ∧
  (∀ (s : State) (req : Bundle) (rest : List Drive), s.stimulus = requestDrive req :: rest →
    step s = .next { outValid := 1, outData := resultOf (decode req), stimulus := rest }) ∧
  (∀ (s : State) (r : Fault), step s ≠ .fault r)

/-- 10_state.md R24: the flag after an edge is 1 exactly if the edge accepted a request; `out_data` is written only by a reset edge
or an accepted request; an edge uses up its own drive and no other. -/
def Obligations.StepFrame : Prop :=
  ∀ (s t : State) (d : Drive) (rest : List Drive), s.stimulus = d :: rest → step s = .next t →
    (t.outValid = 1 ↔ ∃ req, d.sample = .request req) ∧
    (d.rst = some 0 → d.inValid = some 0 → t.outData = s.outData) ∧
    t.stimulus = rest

/-- What either instruction leaves unchanged, and that its result does not depend on the state it starts in (20_memory.md R46,
41_mixcolumns.md R107). -/
def Obligations.InstructionFrame : Prop :=
  ∀ (i : Instr) (s t : State), exec i s = .next t →
    t.stimulus = s.stimulus ∧ t.outValid = 1 ∧
    ∀ s' t' : State, exec i s' = .next t' → t'.outputs = t.outputs

/-! ## The two instructions -/

/-- 40_gf_multiply.md R83 at the level of `exec`: GMUL completes in every state, for every pair of operands. -/
def Obligations.GmulCompletes : Prop :=
  ∀ (a b : Byte) (s : State),
    exec (.gmul a b) s = .next { s with outValid := 1, outData := (gfMul a b).setWidth 32 }

/-- 41_mixcolumns.md R102 at the level of `exec`: MIXCOL completes in every state, for every column. -/
def Obligations.MixcolCompletes : Prop :=
  ∀ (c : Word) (s : State), exec (.mixcol c) s = .next { s with outValid := 1, outData := mixCol c }

/-- 40_gf_multiply.md R83: GMUL from the ports, with every corner case and the worked example of the rule. -/
def Obligations.GmulRule : Prop :=
  (∀ (s : State) (x : Word) (y : Byte) (rest : List Drive),
    s.stimulus = Inputs.drive ⟨0, 1, 0, x, y⟩ :: rest →
    step s = .next { outValid := 1, outData := (gfMul (x.extractLsb' 0 8) y).setWidth 32, stimulus := rest }) ∧
  (∀ a : Byte, gfMul 0 a = 0 ∧ gfMul a 0 = 0 ∧ gfMul a 0x01 = a ∧ gfMul 0x01 a = a ∧ gfMul a 0x02 = xtime a) ∧
  (∀ a b : Byte, (gmulResult a b).extractLsb' 8 24 = 0) ∧
  gfMul 0x80 0x02 = 0x1B ∧ gfMul 0xFF 0xFF = 0x13 ∧ gmulResult 0x57 0x83 = 0x000000C1

/-- 41_mixcolumns.md R102: MIXCOL from the ports, with every corner case and the worked example of the rule. -/
def Obligations.MixcolRule : Prop :=
  (∀ (s : State) (x : Word) (y : Byte) (rest : List Drive),
    s.stimulus = Inputs.drive ⟨0, 1, 1, x, y⟩ :: rest →
    step s = .next { outValid := 1, outData := mixCol x, stimulus := rest }) ∧
  (∀ c : Byte, mixCol (pack c c c c) = pack c c c c) ∧
  mixCol 0x00000000 = 0x00000000 ∧ mixCol 0xFFFFFFFF = 0xFFFFFFFF ∧ mixCol 0x80808080 = 0x80808080 ∧
  mixCol 0x80000000 = 0x1B80809B ∧ mixCol 0x01000000 = 0x02010103 ∧
  mixCol (pack 0xDB 0x13 0x53 0x45) = pack 0x8E 0x4D 0xA1 0xBC

/-- 20_memory.md R42: where the factors of a GMUL stand and where its product lands. -/
def Obligations.GmulBytePositions : Prop :=
  ∀ (s : State) (x : Word) (y : Byte) (rest : List Drive), s.stimulus = Inputs.drive ⟨0, 1, 0, x, y⟩ :: rest →
    ∃ t, step s = .next t ∧
      t.outData.extractLsb' 0 8 = gfMul (x.extractLsb' 0 8) y ∧ t.outData.extractLsb' 8 24 = 0

/-- 40_gf_multiply.md R84: XTIME leaves the doubled Byte, which is the product with 2; the rule's corner cases. -/
def Obligations.XtimeRule : Prop :=
  (∀ (s : State) (x : Byte) (rest : List Drive), s.stimulus = (assemble (.xtime x)).drive :: rest →
    step s = .next { outValid := 1, outData := (xtime x).setWidth 32, stimulus := rest }) ∧
  (∀ x : Byte, gfMul x 0x02 = xtime x) ∧
  xtime 0x00 = 0x00 ∧ xtime 0x80 = 0x1B ∧ xtime 0xFF = 0xE5 ∧ xtime 0x8D = 0x01

/-! ## The field -/

/-- 40_gf_multiply.md R82: doubling, as the rule writes it and as the reduction of the 9-bit value by 0x11B. -/
def Obligations.DoublingReduces : Prop :=
  ∀ x : Byte,
    xtime x = (if x.getLsbD 7 then (x <<< 1) ^^^ 0x1B#8 else x <<< 1) ∧
    (xtime x).setWidth 9 =
      (if (x.setWidth 9 <<< 1).getLsbD 8 then (x.setWidth 9 <<< 1) ^^^ 0x11B#9 else x.setWidth 9 <<< 1)

/-- 40_gf_multiply.md R80, R81 (C5): the loop "until b is zero" and the fixed eight steps give the same product; 8 rounds are enough
for the loop, and more change nothing. -/
def Obligations.LoopMeetsFixedSteps : Prop :=
  ∀ (n : Nat) (a b : Byte), 8 ≤ n → gfMulLoop n 0 a b = gfMul a b

/-- 40_gf_multiply.md R80: the product is the polynomial product over GF(2) reduced modulo x^8+x^4+x^3+x+1. -/
def Obligations.ProductIsPolynomialProduct : Prop :=
  ∀ a b : Byte, gfMul a b = polyMod (polyMul a b)

/-- 40_gf_multiply.md R85: the laws the source states. -/
def Obligations.SourceLaws : Prop :=
  (∀ a b : Byte, gfMul a b = gfMul b a) ∧ (∀ a : Byte, gfMul a 0 = 0) ∧ (∀ a : Byte, gfMul a 1 = a) ∧
  ∀ x : Byte, xtime x = gfMul x 2

/-- 40_gf_multiply.md R86: distributivity, associativity, no zero divisors, unique inverses, and doubling is a bijection. -/
def Obligations.FieldLaws : Prop :=
  (∀ a b c : Byte, gfMul (a ^^^ c) b = gfMul a b ^^^ gfMul c b) ∧
  (∀ a b c : Byte, gfMul (gfMul a b) c = gfMul a (gfMul b c)) ∧
  (∀ a b : Byte, gfMul a b = 0 → a = 0 ∨ b = 0) ∧
  (∀ a : Byte, a ≠ 0 → ∃ b, gfMul a b = 1 ∧ ∀ b', gfMul a b' = 1 → b' = b) ∧
  gfMul 0x53 0xCA = 0x01 ∧
  Function.Bijective xtime

/-! ## The column transform -/

/-- 41_mixcolumns.md R101, R105: the doubling path is the circulant {2,3,1,1} matrix over GF(2^8), indices mod 4. -/
def Obligations.MixcolIsTheCirculant : Prop :=
  (∀ (w : Word) (i : Fin 4),
    lane i (mixCol w) =
        gfMul 0x02 (lane i w) ^^^ gfMul 0x03 (lane (i + 1) w) ^^^ lane (i + 2) w ^^^ lane (i + 3) w ∧
    lane i (mixCol w) = circulantRow 0x02 0x03 0x01 0x01 i w) ∧
  ∀ x : Byte, xtime x = gfMul x 0x02 ∧ gfMul 0x02 x = xtime x ∧ gfMul 0x03 x = xtime x ^^^ x

/-- 41_mixcolumns.md R103: the column transform is linear. -/
def Obligations.MixcolIsLinear : Prop :=
  ∀ c1 c2 : Word, mixCol (c1 ^^^ c2) = mixCol c1 ^^^ mixCol c2

/-- 41_mixcolumns.md R104: the inverse matrix recovers every column, from either side (its coefficients: log entry 11). -/
def Obligations.InverseMatrixRecovers : Prop :=
  ∀ c : Word, invMixCol (mixCol c) = c ∧ mixCol (invMixCol c) = c

/-! ## Reset and power-up -/

/-- 10_state.md R33: the reset values, after any edge with `rst = 1`, whatever the state and the other inputs. -/
def Obligations.ResetValues : Prop :=
  (∀ (s : State) (i : Inputs) (rest : List Drive), s.stimulus = i.drive :: rest → i.rst = 1 →
    ∃ t, step s = .next t ∧ t.outValid = 0 ∧ t.outData = 0x00000000) ∧
  State.reset.outValid = 0 ∧ State.reset.outData = 0x00000000

/-- 60_exceptions.md R123: with `rst = 1` and `in_valid = 1` reset wins: the edge does what it does without the request, and the
request has no response. -/
def Obligations.ResetWins : Prop :=
  ∀ (s : State) (op : Bit) (x : Word) (y : Byte) (rest : List Drive),
    step (s.load (Inputs.drive ⟨1, 1, op, x, y⟩ :: rest)) = step (s.load (Inputs.drive ⟨1, 0, op, x, y⟩ :: rest)) ∧
    step (s.load (Inputs.drive ⟨1, 1, op, x, y⟩ :: rest)) = .next { outValid := 0, outData := 0, stimulus := rest } ∧
    (Inputs.drive ⟨1, 1, op, x, y⟩).accepted = none

/-- 70_reset_and_hazards.md R140: while `rst` stays 1 every edge repeats the reset, for any number of edges. -/
def Obligations.ResetHeld : Prop :=
  ∀ (s : State) (is : List Inputs) (rest : List Drive),
    s.stimulus = is.map Inputs.drive ++ rest → (∀ i ∈ is, i.rst = 1) →
    observe is.length s = List.replicate is.length ⟨0, 0⟩ ∧
    (is ≠ [] → run is.length s = .next { outValid := 0, outData := 0, stimulus := rest })

/-- 70_reset_and_hazards.md R141: one reset edge is complete, and a request at the very next edge is accepted. -/
def Obligations.OneResetEdgeSuffices : Prop :=
  ∀ (s : State) (r q : Inputs) (rest : List Drive),
    s.stimulus = r.drive :: q.drive :: rest → r.rst = 1 → q.rst = 0 → q.inValid = 1 →
    run 1 s = .next { outValid := 0, outData := 0, stimulus := q.drive :: rest } ∧
    run 2 s = .next { outValid := 1, outData := execute q.inOp q.inX q.inY, stimulus := rest }

/-- 70_reset_and_hazards.md R143, 10_state.md R34: what is known before the first reset, for every power-up value. -/
def Obligations.BeforeTheFirstReset : Prop :=
  ∀ (k : Nat) (i : Inputs) (rest : List Drive), i.rst = 0 →
    (i.inValid = 0 →
      step ((State.powerUp k).load (i.drive :: rest)) =
        .next { outValid := 0, outData := Config.powerUpData k, stimulus := rest }) ∧
    (i.inValid = 1 →
      step ((State.powerUp k).load (i.drive :: rest)) =
        .next { outValid := 1, outData := execute i.inOp i.inX i.inY, stimulus := rest })

/-- 70_reset_and_hazards.md R143: once a reset edge or an accepted request has happened, nothing is left of the registers' earlier
values: two copies driven alike, from any two states, are in the same state. -/
def Obligations.SettledForgetsThePast : Prop :=
  ∀ (s s' : State) (k : Nat), s.stimulus = s'.stimulus → s.settledWithin k = true → run k s = run k s'

/-! ## Runs of edges -/

/-- The launch premise of R150 is kept by every step, and under it every step answers a next state. -/
def Obligations.DrivenIsKept : Prop :=
  ∀ s : State, s.driven → ∃ t, step s = .next t ∧ t.driven

/-- The state after reset meets R150's premise (log entry 1: no edge is scheduled). -/
def Obligations.ResetIsDriven : Prop :=
  State.reset.driven

/-- 20_memory.md R47: each accepted request has exactly one response, in the order of acceptance; none is reordered, merged,
duplicated or dropped. -/
def Obligations.ResponsesInOrder : Prop :=
  ∀ s : State, s.driven →
    responses s = (acceptedRequests s.stimulus).map fun req => resultOf (decode req)

/-- 20_memory.md R47, 70_reset_and_hazards.md R148: the response to the request accepted at an edge is on the outputs after that
same edge, for both operations and every operand; at every other edge `out_valid` is 0. -/
def Obligations.ResponseAtItsEdge : Prop :=
  ∀ (s : State) (n : Nat) (d : Drive), s.driven → s.stimulus[n]? = some d →
    ∃ o, (observe s.stimulus.length s)[n]? = some o ∧
      (∀ req, d.accepted = some req → o = ⟨1, resultOf (decode req)⟩) ∧
      (d.accepted = none → o.outValid = 0)

/-- 70_reset_and_hazards.md R145: the result stays on `out_data` over any number of idle edges, flagged only in the first interval,
until the next accepted request or reset replaces it. -/
def Obligations.ResultWindow : Prop :=
  ∀ (s : State) (req : Bundle) (idles : List Inputs) (last : Inputs) (rest : List Drive),
    s.stimulus = requestDrive req :: (idles.map Inputs.drive ++ last.drive :: rest) →
    (∀ i ∈ idles, i.rst = 0 ∧ i.inValid = 0) →
    (last.rst = 1 ∨ last.inValid = 1) →
    observe (idles.length + 2) s =
      ⟨1, resultOf (decode req)⟩ :: List.replicate idles.length ⟨0, resultOf (decode req)⟩ ++
        [if last.rst = 1 then ⟨0, 0⟩ else ⟨1, execute last.inOp last.inX last.inY⟩]

/-! ## The host's matrix procedure -/

/-- 41_mixcolumns.md R106, R107 (C1, C2): the four column requests, in any order, on a copy in any state, give the host the
transformed matrix: each byte by the circulant matrix form over its own vertical column. -/
def Obligations.MatrixProcedure : Prop :=
  ∀ (m t : Matrix) (order : List (Fin 4)) (s : State), order.Perm [0, 1, 2, 3] →
    ∀ i j : Fin 4,
      (hostTransform m order s t).entry i j =
        gfMul 0x02 (m.entry i j) ^^^ gfMul 0x03 (m.entry (i + 1) j) ^^^ m.entry (i + 2) j ^^^ m.entry (i + 3) j

/-- 41_mixcolumns.md R106, R107, R108 (C1, C2): the four column requests in any order, at any edges, on one copy or spread over
several, whatever states the copies are in, give the host the transformed matrix. Its instance with two copies and two edges is
program P5's placement. -/
def Obligations.MatrixOnCopies : Prop :=
  ∀ (n : Nat) (m t : Matrix) (plan : ColumnPlan n) (S : System n), (planColumns plan).Perm [0, 1, 2, 3] →
    ∀ i j : Fin 4,
      (hostTransformOn m plan S t).entry i j =
        gfMul 0x02 (m.entry i j) ^^^ gfMul 0x03 (m.entry (i + 1) j) ^^^ m.entry (i + 2) j ^^^ m.entry (i + 3) j

/-- 70_reset_and_hazards.md R149, 41_mixcolumns.md R108: a batch of N matrices on k copies fully used takes ceil(4N / k) edges, and
each column's result is on its copy's outputs after its edge. The schedule is the model's choice for the host (log entry 13). -/
def Obligations.BatchOnCopies : Prop :=
  ∀ (n : Nat) (ms : List Matrix), Config.validCount n = true →
    (batchStimulus n (batchColumns ms)).length = (4 * ms.length + n - 1) / n ∧
    ∀ (S : System n) (e : Nat) (i : Fin n) (c : Word), (batchColumns ms)[e * n + i.val]? = some c →
      ∃ T, System.run (e + 1) { S with stimulus := batchStimulus n (batchColumns ms) } = .next T ∧
        T.outputs[i] = ⟨1, mixCol c⟩

/-! ## Several copies -/

/-- 60_exceptions.md R127, 10_state.md R20: a step of a system is a step of each copy on its own ports and its own state, all at
the same edge, and nothing besides. -/
def Obligations.SystemIsItsCopies : Prop :=
  ∀ (n : Nat) (S T : System n), Config.validCount n = true →
    (S.step = .next T ↔ ∀ i : Fin n, step (S.view i) = .next (T.view i))

/-- 60_exceptions.md R127: a copy learns nothing of the others: whatever they hold and are driven with, its next state is the same. -/
def Obligations.CopiesShareNothing : Prop :=
  ∀ (n : Nat) (S S' T T' : System n) (i : Fin n), S.view i = S'.view i → S.step = .next T → S'.step = .next T' →
    T.view i = T'.view i

/-- A system's edge is refused exactly where some copy's ports are undefined, and it never faults. R150 asks for the refusal of that
copy's ports; that it refuses the whole system's edge, so that no copy has a next state, is the model's choice (log entry 9), since
R127 and R150 say nothing of the other copies there. -/
def Obligations.SystemRefusal : Prop :=
  ∀ (n : Nat) (S : System n),
    ((∃ r, S.step = .refused r) ↔ ∃ (i : Fin n) (r : Refusal), step (S.view i) = .refused r) ∧
    ∀ r : Fault, S.step ≠ .fault r

/-- The launch premise of R150 for every copy is kept by every edge of a system, and under it every edge answers a next state. -/
def Obligations.SystemDrivenIsKept : Prop :=
  ∀ (n : Nat) (S : System n), S.driven → ∃ T, S.step = .next T ∧ T.driven

/-- 10_state.md R33, R34: each copy of a system at reset and at power-up; at power-up copy k holds its own free draws. -/
def Obligations.SystemStart : Prop :=
  ∀ (n : Nat) (i : Fin n), (System.reset n).view i = State.reset ∧ (System.powerUp n).view i = State.powerUp i.val

/-- 60_exceptions.md R127, last row: exactly one worker's bundle reaches a port, and it is accepted. The other two clauses are the
model's: two or more are refused because two sources make a port undefined (log entry 3, a deduction from R127 and R150), and none is
an idle edge (log entry 19, a choice). -/
def Obligations.OneBundlePerPort : Prop :=
  (∀ (s : State) (req : Bundle), step (s.load [portDrive [req]]) =
    .next { outValid := 1, outData := resultOf (decode req), stimulus := [] }) ∧
  (∀ s : State, step (s.load [portDrive []]) = .next { outValid := 0, outData := s.outData, stimulus := [] }) ∧
  (∀ (s : State) (r1 r2 : Bundle) (more : List Bundle), ∃ r, step (s.load [portDrive (r1 :: r2 :: more)]) = .refused r)
end

