-- ==== Sys2Proof/Laws/Operands.lean ====
section
/-! SUPPORT. Lanes and packing (00_scope.md R9). -/

namespace Sys2Proof.Machine

theorem lane_getLsbD (i : Fin 4) (w : Word) (k : Nat) (hk : k < 8) : (lane i w).getLsbD k = w.getLsbD (24 - 8 * i.val + k) := by
  simp [lane, hk]

theorem pack_getLsbD (a b c d : Byte) (k : Nat) :
    (pack a b c d).getLsbD k =
      if k < 8 then d.getLsbD k
      else if k < 16 then c.getLsbD (k - 8)
      else if k < 24 then b.getLsbD (k - 16)
      else a.getLsbD (k - 24) := by
  change BitVec.getLsbD (w := 8 + 8 + 8 + 8) (a ++ b ++ c ++ d) k = _
  rw [BitVec.getLsbD_append, BitVec.getLsbD_append, BitVec.getLsbD_append]
  simp only [Nat.sub_sub]
  repeat' split
  all_goals first | rfl | omega

theorem lane_xor (i : Fin 4) (v w : Word) : lane i (v ^^^ w) = lane i v ^^^ lane i w := by
  apply BitVec.eq_of_getLsbD_eq
  intro k hk
  simp [lane_getLsbD _ _ _ hk]

theorem lane0_pack (a b c d : Byte) : lane 0 (pack a b c d) = a := by
  apply BitVec.eq_of_getLsbD_eq
  intro k hk
  rw [lane_getLsbD _ _ _ hk, pack_getLsbD, if_neg (by simp; omega), if_neg (by simp; omega), if_neg (by simp)]
  congr 1
  simp

theorem lane1_pack (a b c d : Byte) : lane 1 (pack a b c d) = b := by
  apply BitVec.eq_of_getLsbD_eq
  intro k hk
  rw [lane_getLsbD _ _ _ hk, pack_getLsbD, if_neg (by simp; omega), if_neg (by simp), if_pos (by simp; omega)]
  congr 1
  simp

theorem lane2_pack (a b c d : Byte) : lane 2 (pack a b c d) = c := by
  apply BitVec.eq_of_getLsbD_eq
  intro k hk
  rw [lane_getLsbD _ _ _ hk, pack_getLsbD, if_neg (by simp), if_pos (by simp; omega)]
  congr 1
  simp

theorem lane3_pack (a b c d : Byte) : lane 3 (pack a b c d) = d := by
  apply BitVec.eq_of_getLsbD_eq
  intro k hk
  rw [lane_getLsbD _ _ _ hk, pack_getLsbD, if_pos (by simp; omega)]
  congr 1
  simp

/-- A word is its four lanes. -/
theorem pack_lanes (w : Word) : pack (lane 0 w) (lane 1 w) (lane 2 w) (lane 3 w) = w := by
  apply BitVec.eq_of_getLsbD_eq
  intro k hk
  rw [pack_getLsbD]
  split
  · rw [lane_getLsbD _ _ _ (by omega)]; simp
  · split
    · rw [lane_getLsbD _ _ _ (by omega)]; congr 1; simp; omega
    · split
      · rw [lane_getLsbD _ _ _ (by omega)]; congr 1; simp; omega
      · rw [lane_getLsbD _ _ _ (by omega)]; congr 1; simp; omega

end Sys2Proof.Machine
end

