-- ==== Sys2Proof/Laws/Column.lean ====
section
/-! SUPPORT. The lanes of a transformed column, letter for letter from 41_mixcolumns.md R100. -/

namespace Sys2Proof.Machine

theorem lane0_mixCol (w : Word) :
    lane 0 (mixCol w) = xtime (lane 0 w) ^^^ lane 1 w ^^^ xtime (lane 1 w) ^^^ lane 2 w ^^^ lane 3 w :=
  lane0_pack _ _ _ _

theorem lane1_mixCol (w : Word) :
    lane 1 (mixCol w) = xtime (lane 1 w) ^^^ lane 2 w ^^^ xtime (lane 2 w) ^^^ lane 3 w ^^^ lane 0 w :=
  lane1_pack _ _ _ _

theorem lane2_mixCol (w : Word) :
    lane 2 (mixCol w) = xtime (lane 2 w) ^^^ lane 3 w ^^^ xtime (lane 3 w) ^^^ lane 0 w ^^^ lane 1 w :=
  lane2_pack _ _ _ _

theorem lane3_mixCol (w : Word) :
    lane 3 (mixCol w) = xtime (lane 3 w) ^^^ lane 0 w ^^^ xtime (lane 0 w) ^^^ lane 1 w ^^^ lane 2 w :=
  lane3_pack _ _ _ _

/-- Two words with the same four lanes are one word. -/
theorem word_ext_lanes {v w : Word} (h0 : lane 0 v = lane 0 w) (h1 : lane 1 v = lane 1 w) (h2 : lane 2 v = lane 2 w)
    (h3 : lane 3 v = lane 3 w) : v = w := by
  rw [← pack_lanes v, ← pack_lanes w, h0, h1, h2, h3]

end Sys2Proof.Machine
end

