-- ==== Sys2Proof/Laws/Decode.lean ====
section
/-! SUPPORT. The bits of a bundle (30_encoding.md R60), and its fields read back from its parts. -/

namespace Sys2Proof

theorem bundleOf_getLsbD (op : Bit) (y : Byte) (x : Word) (k : Nat) :
    (bundleOf op y x).getLsbD k =
      if k < 32 then x.getLsbD k else if k < 40 then y.getLsbD (k - 32) else op.getLsbD (k - 40) := by
  change BitVec.getLsbD (w := 1 + 8 + 32) (op ++ y ++ x) k = _
  rw [BitVec.getLsbD_append, BitVec.getLsbD_append]
  split
  · rfl
  · split
    · rw [if_pos (by omega)]
    · rw [if_neg (by omega)]; congr 1

theorem highLow_getLsbD (hi : BitVec 24) (a : Byte) (k : Nat) :
    BitVec.getLsbD (w := 32) (hi ++ a) k = if k < 8 then a.getLsbD k else hi.getLsbD (k - 8) := by
  change BitVec.getLsbD (w := 24 + 8) (hi ++ a) k = _
  rw [BitVec.getLsbD_append]

theorem reqOp_bundleOf (op : Bit) (y : Byte) (x : Word) : reqOp (bundleOf op y x) = op := by
  apply BitVec.eq_of_getLsbD_eq
  intro i hi
  rw [reqOp, BitVec.getLsbD_extractLsb', bundleOf_getLsbD]
  simp [show i = 0 by omega]

theorem reqY_bundleOf (op : Bit) (y : Byte) (x : Word) : reqY (bundleOf op y x) = y := by
  apply BitVec.eq_of_getLsbD_eq
  intro i hi
  rw [reqY, BitVec.getLsbD_extractLsb', bundleOf_getLsbD, if_neg (by omega), if_pos (by omega)]
  simp [hi]

theorem reqX_bundleOf (op : Bit) (y : Byte) (x : Word) : reqX (bundleOf op y x) = x := by
  apply BitVec.eq_of_getLsbD_eq
  intro i hi
  rw [reqX, BitVec.getLsbD_extractLsb', bundleOf_getLsbD, if_pos (by omega)]
  simp [hi]

end Sys2Proof
end

