-- ==== Sys2Proof/Laws/Field.lean ====
section
/-! SUPPORT. Doubling is XOR-linear, and the eight steps of the fixed-step multiply written out (40_gf_multiply.md R81, R82). -/

namespace Sys2Proof.Machine

theorem xtime_xor (x y : Byte) : xtime (x ^^^ y) = xtime x ^^^ xtime y := by
  unfold xtime
  rw [BitVec.getLsbD_xor, BitVec.shiftLeft_xor_distrib]
  have h : ∀ u v k : Byte, u ^^^ k ^^^ (v ^^^ k) = u ^^^ v := fun u v k => by
    rw [BitVec.xor_comm v k, ← BitVec.xor_assoc, BitVec.xor_assoc u k k, BitVec.xor_self, BitVec.xor_zero]
  cases x.getLsbD 7 <;> cases y.getLsbD 7 <;> simp [h] <;> ac_rfl

theorem gfMul_unfold (a b : Byte) :
    gfMul a b =
      ([0, 1, 2, 3, 4, 5, 6, 7].foldl (gfMulStep b) (0, a)).1 := rfl

theorem gfMulStep_fst (b : Byte) (pt : Byte × Byte) (i : Nat) :
    (gfMulStep b pt i).1 = if b.getLsbD i then pt.1 ^^^ pt.2 else pt.1 := rfl

theorem gfMulStep_snd (b : Byte) (pt : Byte × Byte) (i : Nat) : (gfMulStep b pt i).2 = xtime pt.2 := rfl

end Sys2Proof.Machine
end

