-- ==== Sys2Proof/Laws/Matrix.lean ====
section
/-! SUPPORT. What storing a column does to the host's matrix (41_mixcolumns.md R106), and a system's edges one at a time. -/

namespace Sys2Proof.Machine

/-- Storing column j sets its four entries to the lanes of the result and leaves every other column. -/
theorem entry_writeColumn (t : Matrix) (j k i : Fin 4) (r : Word) :
    (t.writeColumn j r).entry i k = if k = j then lane i r else t.entry i k := by
  simp only [Matrix.writeColumn, Matrix.entry, Vector.getElem_set]
  revert i j k
  simp [Fin.forall_fin_succ]

@[simp] theorem storePlanned_none (t : Matrix) (o : Outputs) : storePlanned t (none, o) = t := rfl

@[simp] theorem storePlanned_some (t : Matrix) (j : Fin 4) (o : Outputs) :
    storePlanned t (some j, o) = t.writeColumn j o.outData := rfl

@[simp] theorem System.load_outputs {n : Nat} (S : System n) (p : List (Vector Drive n)) : (S.load p).outputs = S.outputs := rfl

@[simp] theorem System.load_stimulus {n : Nat} (S : System n) (p : List (Vector Drive n)) : (S.load p).stimulus = p := rfl

theorem System.observe_succ {n : Nat} {S T : System n} (h : S.step = .next T) (k : Nat) :
    System.observe (k + 1) S = T.outputs :: System.observe k T := by
  simp [System.observe, h]

end Sys2Proof.Machine
end

