-- ==== Sys2Proof/Laws/PerInstr.lean ====
section
/-! SUPPORT. One law for every instruction as syntax: its canonical encoding carries the opcode of R62 and 0 in every ignored bit
(30_encoding.md R60, R66). -/

namespace Sys2Proof.Laws.CanonicalBits

/-- The opcode a row of the table has at bit 40 (R62), and the bits its operation ignores (R65), all 0. -/
def Statement : Instr → Prop
  | .gmul a b => reqOp (encode (.gmul a b)) = 0 ∧ (reqX (encode (.gmul a b))).extractLsb' 8 24 = 0
  | .mixcol c => reqOp (encode (.mixcol c)) = 1 ∧ reqY (encode (.mixcol c)) = 0

theorem gmul (a b : Byte) : Statement (.gmul a b) := by
  refine ⟨reqOp_bundleOf _ _ _, ?_⟩
  simp only [encode, encodeWith, reqX_bundleOf]
  apply BitVec.eq_of_getLsbD_eq
  intro i hi
  rw [BitVec.getLsbD_extractLsb', highLow_getLsbD, if_neg (by omega)]
  simp

theorem mixcol (c : Word) : Statement (.mixcol c) := ⟨reqOp_bundleOf _ _ _, reqY_bundleOf _ _ _⟩

end Sys2Proof.Laws.CanonicalBits
end

