-- ==== Sys2Proof/Laws/State.lean ====
section
/-! SUPPORT. One lemma per field per update of State, so that no proof unfolds a record update. -/

namespace Sys2Proof.Machine

@[simp] theorem State.consume_outValid (s : State) : s.consume.outValid = s.outValid := rfl
@[simp] theorem State.consume_outData (s : State) : s.consume.outData = s.outData := rfl
@[simp] theorem State.consume_stimulus (s : State) : s.consume.stimulus = s.stimulus.tail := rfl

@[simp] theorem State.resetEdge_outValid (s : State) : s.resetEdge.outValid = 0 := rfl
@[simp] theorem State.resetEdge_outData (s : State) : s.resetEdge.outData = 0 := rfl
@[simp] theorem State.resetEdge_stimulus (s : State) : s.resetEdge.stimulus = s.stimulus := rfl

@[simp] theorem State.idleEdge_outValid (s : State) : s.idleEdge.outValid = 0 := rfl
@[simp] theorem State.idleEdge_outData (s : State) : s.idleEdge.outData = s.outData := rfl
@[simp] theorem State.idleEdge_stimulus (s : State) : s.idleEdge.stimulus = s.stimulus := rfl

@[simp] theorem State.accept_outValid (s : State) (v : Word) : (s.accept v).outValid = 1 := rfl
@[simp] theorem State.accept_outData (s : State) (v : Word) : (s.accept v).outData = v := rfl
@[simp] theorem State.accept_stimulus (s : State) (v : Word) : (s.accept v).stimulus = s.stimulus := rfl

@[simp] theorem State.load_outValid (s : State) (p : List Drive) : (s.load p).outValid = s.outValid := rfl
@[simp] theorem State.load_outData (s : State) (p : List Drive) : (s.load p).outData = s.outData := rfl
@[simp] theorem State.load_stimulus (s : State) (p : List Drive) : (s.load p).stimulus = p := rfl

@[simp] theorem State.withFetchWord_outValid (s : State) (n w : Nat) : (s.withFetchWord n w).outValid = s.outValid := rfl
@[simp] theorem State.withFetchWord_outData (s : State) (n w : Nat) : (s.withFetchWord n w).outData = s.outData := rfl
@[simp] theorem State.withFetchWord_stimulus (s : State) (n w : Nat) :
    (s.withFetchWord n w).stimulus = requestDrive (BitVec.ofNat 41 w) :: s.stimulus.tail := rfl

@[simp] theorem State.outputs_outValid (s : State) : s.outputs.outValid = s.outValid := rfl
@[simp] theorem State.outputs_outData (s : State) : s.outputs.outData = s.outData := rfl

@[simp] theorem System.view_outValid {n : Nat} (S : System n) (i : Fin n) : (S.view i).outValid = S.outputs[i].outValid := rfl
@[simp] theorem System.view_outData {n : Nat} (S : System n) (i : Fin n) : (S.view i).outData = S.outputs[i].outData := rfl
@[simp] theorem System.view_stimulus {n : Nat} (S : System n) (i : Fin n) :
    (S.view i).stimulus = S.stimulus.map fun ds => ds[i] := rfl

/-- Two states with the same registers and the same scheduled edges are one state. -/
theorem State.ext_fields {s t : State} (hv : s.outValid = t.outValid) (hd : s.outData = t.outData)
    (hs : s.stimulus = t.stimulus) : s = t := by
  cases s; cases t; simp_all

end Sys2Proof.Machine
end

