-- ==== Sys2Proof/Laws/Step.lean ====
section
/-! SUPPORT. What one edge can do, said once (10_state.md R29). -/

namespace Sys2Proof.Machine

theorem nextAction_nil {s : State} (h : s.stimulus = []) : s.nextAction = none := by
  simp [State.nextAction, h]

theorem nextAction_cons {s : State} {d : Drive} {rest : List Drive} (h : s.stimulus = d :: rest) :
    s.nextAction = some d.sample := by
  simp [State.nextAction, h]

/-- Everything the sampling of defined ports can answer. -/
theorem sample_inputs (i : Inputs) :
    i.drive.sample =
      if i.inValid = 1 then (if i.rst = 1 then .reset else .request (bundleOf i.inOp i.inY i.inX))
      else if i.rst = 1 then .reset else .idle := rfl

/-- The ports are refused only where R150 is broken. -/
theorem sample_undefined {d : Drive} {r : Refusal} (h : d.sample = .undefinedInput r) : d.defined = false := by
  obtain ⟨rst, v, op, x, y⟩ := d
  cases rst with
  | none => simp [Drive.defined]
  | some rst =>
    cases v with
    | none => simp [Drive.defined]
    | some v =>
      simp only [Drive.sample] at h
      split at h
      · subst_vars
        cases op <;> cases x <;> cases y <;> simp_all [Drive.defined]
        split at h <;> cases h
      · split at h <;> cases h

/-- An accepted request always answers: one of the two meanings, each of which accepts a result and changes nothing else. -/
theorem exec_accepts (i : Instr) (s : State) : ∃ v, exec i s = .next (s.accept v) := by
  cases i with
  | gmul a b => exact ⟨_, rfl⟩
  | mixcol c => exact ⟨_, rfl⟩

/-- The result an accepted request leaves is the instruction's. -/
theorem exec_result (i : Instr) (s : State) : exec i s = .next (s.accept (resultOf i)) := by
  cases i <;> rfl

/-- A step with the drive `d` at its next edge, by what `d` is sampled as. -/
theorem step_at_edge {s : State} {d : Drive} {rest : List Drive} (h : s.stimulus = d :: rest) :
    step s =
      match d.sample with
      | .undefinedInput r => .refused r
      | .reset => .next s.consume.resetEdge
      | .idle => .next s.consume.idleEdge
      | .request req => .next (s.consume.accept (resultOf (decode req))) := by
  unfold step
  rw [nextAction_cons h]
  cases d.sample <;> simp [exec_result]

/-- Where a step answers a next state, one drive is used up. -/
theorem step_stimulus {s t : State} (h : step s = .next t) : t.stimulus = s.stimulus.tail := by
  match hs : s.stimulus with
  | [] =>
    unfold step at h
    rw [nextAction_nil hs] at h
    cases h
    simp [hs]
  | d :: rest =>
    rw [step_at_edge hs] at h
    split at h <;> cases h <;> simp [hs]

/-- Where a step answers a next state, it is one of these. -/
theorem step_cases {s t : State} (h : step s = .next t) :
    (s.nextAction = none ∧ t = s) ∨
    (s.nextAction = some .reset ∧ t = s.consume.resetEdge) ∨
    (s.nextAction = some .idle ∧ t = s.consume.idleEdge) ∨
    (∃ req v, s.nextAction = some (.request req) ∧ exec (decode req) s.consume = .next t ∧ t = s.consume.accept v) := by
  unfold step at h
  split at h
  · next ha => exact .inl ⟨ha, by simpa using h.symm⟩
  · cases h
  · next ha => exact .inr (.inl ⟨ha, by simpa using h.symm⟩)
  · next ha => exact .inr (.inr (.inl ⟨ha, by simpa using h.symm⟩))
  · next req ha =>
    obtain ⟨v, hv⟩ := exec_accepts (decode req) s.consume
    refine .inr (.inr (.inr ⟨req, v, ha, h, ?_⟩))
    rw [hv] at h
    simpa using h.symm

/-- The run and the view of the outputs, one edge at a time. -/
theorem run_succ {s t : State} (h : step s = .next t) (k : Nat) : run (k + 1) s = run k t := by
  simp [run, h]

theorem observe_succ {s t : State} (h : step s = .next t) (k : Nat) : observe (k + 1) s = t.outputs :: observe k t := by
  simp [observe, h]

/-- No copy of a system refuses its ports exactly where every copy has a next state. -/
theorem refusals_eq_nil {n : Nat} (S : System n) : S.refusals = [] ↔ ∀ i, ∃ t, step (S.view i) = .next t := by
  simp only [System.refusals, List.filterMap_eq_nil_iff, List.mem_finRange, true_implies]
  refine forall_congr' fun i => ?_
  cases step (S.view i) with
  | next t => simp
  | fault r => exact nomatch r
  | refused r => simp

end Sys2Proof.Machine
end

