-- ==== Sys2Proof/Tests/Slice0.lean ====
section
/-! SUPPORT. Tests whose expected results stand in spec/95_test_vectors.md or in a rule's own worked example, and a witness for the
hypotheses of every statement that has some. -/

namespace Sys2Proof.Tests

open Sys2Proof Sys2Proof.Machine

/-- A copy that holds the values of rows S1 to S4 of 95_test_vectors.md 2.4, with one edge scheduled. -/
def small (i : Inputs) : State := { outValid := 1, outData := 0x12345678, stimulus := [i.drive] }

/-- The registers after a step that answers a next state. -/
def outOf (o : Host.Outcome State Fault Refusal) : Option Outputs :=
  match o with
  | .next t => some t.outputs
  | .fault _ => none
  | .refused _ => none

/-- Why a step refuses. -/
def whyOf (o : Host.Outcome State Fault Refusal) : Option Refusal :=
  match o with
  | .next _ => none
  | .fault _ => none
  | .refused r => some r

/-! ## Well-formedness: an ill-formed term for each check -/

theorem test_long_word_is_no_bundle : isBundle (2 ^ 41) = false := by decide
theorem test_zero_copies_is_no_system : Config.validCount 0 = false := by decide
theorem test_undriven_rst : Drive.defined ⟨none, some 0, some 0, some 0, some 0⟩ = false := by decide
theorem test_undriven_in_valid : Drive.defined ⟨some 0, none, some 0, some 0, some 0⟩ = false := by decide
theorem test_undriven_in_op : Drive.defined ⟨some 0, some 1, none, some 0, some 0⟩ = false := by decide
theorem test_undriven_in_x : Drive.defined ⟨some 0, some 1, some 0, none, some 0⟩ = false := by decide
theorem test_undriven_in_y : Drive.defined ⟨some 0, some 1, some 0, some 0, none⟩ = false := by decide
theorem test_undriven_operands_at_idle : Drive.defined ⟨some 0, some 0, none, none, none⟩ = true := by decide
theorem test_every_instr_well_formed : (Instr.gmul 0xFF 0xFF).wellFormed && (Instr.mixcol 0).wellFormed = true := by decide

/-! ## Decoding: words written out from 30_encoding.md R60 and R62, op then y then x -/

theorem test_decode_gmul :
    decode 0b0_10000011_000000000000000000000000_01010111#41 = .gmul 0x57 0x83 := by decide
theorem test_decode_gmul_ignores :
    decode 0b0_11111111_101010111100110111101111_11111111#41 = .gmul 0xFF 0xFF := by decide
theorem test_decode_mixcol :
    decode 0b1_00000000_11011011_00010011_01010011_01000101#41 = .mixcol 0xDB135345 := by decide
theorem test_decode_mixcol_ignores :
    decode 0b1_01011010_11111111_11111111_11111111_11111111#41 = .mixcol 0xFFFFFFFF := by decide
theorem test_encode_gmul : encode (.gmul 0x57 0x83) = 0x08300000057#41 := by decide
theorem test_encode_mixcol : encode (.mixcol 0xDB135345) = 0x100DB135345#41 := by decide
theorem test_decode_too_long : decodeNat 0x20000000000 = .error .notABundle := by rfl

/-! ## One step each -/

/-- P4 edge 5: a GMUL with non-zero ignored bits, both factors 0xFF. -/
theorem test_gmul_ignored_bits : outOf (step (small ⟨0, 1, 0, 0xABCDEFFF, 0xFF⟩)) = some ⟨1, 0x00000013⟩ := by decide
/-- R83's worked example, traced in R88. -/
theorem test_gmul_worked : outOf (step (small ⟨0, 1, 0, 0x00000057, 0x83⟩)) = some ⟨1, 0x000000C1⟩ := by decide
/-- The source's vector (L1.1), with `in_y` non-zero (2.3). -/
theorem test_mixcol_source : outOf (step (small ⟨0, 1, 1, 0xDB135345, 0xFF⟩)) = some ⟨1, 0x8E4DA1BC⟩ := by decide
/-- 2.3: reduction in lane 0 only, which pins the lane order. -/
theorem test_mixcol_lanes : outOf (step (small ⟨0, 1, 1, 0x80000000, 0x00⟩)) = some ⟨1, 0x1B80809B⟩ := by decide
/-- 2.4 S1. -/
theorem test_reset : outOf (step (small ⟨1, 0, 0, 0, 0⟩)) = some ⟨0, 0⟩ := by decide
/-- 2.4 S2: reset wins over a request. -/
theorem test_reset_wins : outOf (step (small ⟨1, 1, 1, 0xDB135345, 0⟩)) = some ⟨0, 0⟩ := by decide
/-- 2.4 S3: an idle edge holds `out_data` and reads nothing else. -/
theorem test_idle_holds : outOf (step (small ⟨0, 0, 1, 0xFFFFFFFF, 0xFF⟩)) = some ⟨0, 0x12345678⟩ := by decide
/-- R150: an operand port without a defined value is refused. -/
theorem test_undefined_operand :
    whyOf (step { outValid := 0, outData := 0, stimulus := [⟨some 0, some 1, some 0, none, some 0⟩] }) =
      some .undefinedRequest := by decide
/-- 2.2: XTIME 0x80. -/
theorem test_xtime : outOf (step (small (assemble (.xtime 0x80)))) = some ⟨1, 0x0000001B⟩ := by decide
/-- The first request after reset (2.4 S7), placed as the host of this row places it. -/
theorem test_first_after_reset :
    outOf (step (State.reset.withFetchWord 48 0x10001000000)) = some ⟨1, 0x02010103⟩ := by decide

/-! ## Witnesses: concrete states and operands that meet the hypotheses of a statement together -/

theorem witness_EveryBundleIsARequest_gmul :
    reqOp 0x0FFABCDEFFF#41 = 0 ∧ reqOp 0x0FF000000FF#41 = 0 ∧
    (0x0FFABCDEFFF#41).extractLsb' 0 8 = (0x0FF000000FF#41).extractLsb' 0 8 ∧ reqY 0x0FFABCDEFFF#41 = reqY 0x0FF000000FF#41 := by
  decide
theorem witness_EveryBundleIsARequest_mixcol :
    reqOp 0x1FFDB135345#41 = 1 ∧ reqOp 0x100DB135345#41 = 1 ∧ reqX 0x1FFDB135345#41 = reqX 0x100DB135345#41 := by decide
theorem witness_EveryBundleIsARequest_idle :
    (⟨0, 0, 1, 0xFFFFFFFF, 0xFF⟩ : Inputs).rst = (⟨0, 0, 0, 0, 0⟩ : Inputs).rst ∧
    (⟨0, 0, 1, 0xFFFFFFFF, 0xFF⟩ : Inputs).inValid = 0 ∧ (⟨0, 0, 0, 0, 0⟩ : Inputs).inValid = 0 := by decide
theorem witness_StepRunsDecoded :
    (State.mk 0 0 [⟨some 0, some 1, some 1, some 0xDB135345, some 0⟩]).stimulus =
      ⟨some 0, some 1, some 1, some 0xDB135345, some 0⟩ :: [] := by decide
theorem witness_PresentedWordRuns : (0 : Nat) < 2 ^ 41 ∧ 2 ^ 41 - 1 < 2 ^ 41 := by decide
theorem witness_EdgeRule_reset : (small ⟨1, 1, 0, 0, 0⟩).stimulus = Inputs.drive ⟨1, 1, 0, 0, 0⟩ :: [] := by decide
theorem witness_EdgeRule_request : (small ⟨0, 1, 0, 2, 3⟩).stimulus = Inputs.drive ⟨0, 1, 0, 2, 3⟩ :: [] := by decide
theorem witness_EdgeRule_idle : (small ⟨0, 0, 0, 0, 0⟩).stimulus = Inputs.drive ⟨0, 0, 0, 0, 0⟩ :: [] := by decide
theorem witness_ExecuteRule : (0xFFFFFF57#32).extractLsb' 0 8 = (0x00000057#32).extractLsb' 0 8 := by decide
theorem witness_UndefinedInputsRefused :
    (State.mk 0 0 [⟨some 1, some 1, none, some 0, some 0⟩]).stimulus = ⟨some 1, some 1, none, some 0, some 0⟩ :: [] := by decide
theorem witness_NoEdgeHoldsState : State.reset.stimulus = [] := by decide
theorem witness_NoException :
    (State.mk 1 5 [requestDrive 0x1FFFFFFFFFF#41]).stimulus = requestDrive 0x1FFFFFFFFFF#41 :: [] := by decide
theorem witness_StepFrame :
    (small ⟨0, 0, 0, 0, 0⟩).stimulus = Inputs.drive ⟨0, 0, 0, 0, 0⟩ :: [] ∧
    step (small ⟨0, 0, 0, 0, 0⟩) = .next ⟨0, 0x12345678, []⟩ ∧
    (Inputs.drive ⟨0, 0, 0, 0, 0⟩).rst = some 0 ∧ (Inputs.drive ⟨0, 0, 0, 0, 0⟩).inValid = some 0 := ⟨rfl, rfl, rfl, rfl⟩
theorem witness_InstructionFrame :
    exec (.gmul 2 3) (State.mk 0 0 []) = .next ⟨1, 6, []⟩ ∧ exec (.gmul 2 3) (State.mk 1 9 []) = .next ⟨1, 6, []⟩ := ⟨rfl, rfl⟩
theorem witness_GmulRule : (small ⟨0, 1, 0, 0xFFFFFF57, 0x83⟩).stimulus = Inputs.drive ⟨0, 1, 0, 0xFFFFFF57, 0x83⟩ :: [] := by decide
theorem witness_MixcolRule : (small ⟨0, 1, 1, 0xDB135345, 0xFF⟩).stimulus = Inputs.drive ⟨0, 1, 1, 0xDB135345, 0xFF⟩ :: [] := by
  decide
theorem witness_GmulBytePositions : (small ⟨0, 1, 0, 0xABCDEFFF, 0xFF⟩).stimulus = Inputs.drive ⟨0, 1, 0, 0xABCDEFFF, 0xFF⟩ :: [] := by
  decide
theorem witness_XtimeRule : (small (assemble (.xtime 0x8D))).stimulus = (assemble (.xtime 0x8D)).drive :: [] := by decide
theorem witness_LoopMeetsFixedSteps : 8 ≤ 8 := by decide
theorem witness_FieldLaws_zero : gfMul 0x57 0x00 = 0 := by decide
theorem witness_FieldLaws_inverse : (0x53 : Byte) ≠ 0 ∧ gfMul 0x53 0xCA = 1 := by decide
theorem witness_ResetValues :
    (small ⟨1, 1, 1, 7, 7⟩).stimulus = Inputs.drive ⟨1, 1, 1, 7, 7⟩ :: [] ∧ (⟨1, 1, 1, 7, 7⟩ : Inputs).rst = 1 := by decide
theorem witness_ResetHeld :
    (State.mk 1 5 (([⟨1, 0, 0, 0, 0⟩, ⟨1, 1, 1, 2, 3⟩] : List Inputs).map Inputs.drive ++ [idleDrive])).stimulus =
      ([⟨1, 0, 0, 0, 0⟩, ⟨1, 1, 1, 2, 3⟩] : List Inputs).map Inputs.drive ++ [idleDrive] ∧
    (∀ i ∈ ([⟨1, 0, 0, 0, 0⟩, ⟨1, 1, 1, 2, 3⟩] : List Inputs), i.rst = 1) ∧
    ([⟨1, 0, 0, 0, 0⟩, ⟨1, 1, 1, 2, 3⟩] : List Inputs) ≠ [] := by decide
theorem witness_OneResetEdgeSuffices :
    (State.mk 1 5 [resetDrive, Inputs.drive ⟨0, 1, 0, 2, 3⟩]).stimulus =
      Inputs.drive ⟨1, 0, 0, 0, 0⟩ :: Inputs.drive ⟨0, 1, 0, 2, 3⟩ :: [] ∧
    (⟨1, 0, 0, 0, 0⟩ : Inputs).rst = 1 ∧ (⟨0, 1, 0, 2, 3⟩ : Inputs).rst = 0 ∧ (⟨0, 1, 0, 2, 3⟩ : Inputs).inValid = 1 := by decide
theorem witness_BeforeTheFirstReset_idle : (⟨0, 0, 0, 0, 0⟩ : Inputs).rst = 0 ∧ (⟨0, 0, 0, 0, 0⟩ : Inputs).inValid = 0 := by decide
theorem witness_BeforeTheFirstReset_request :
    (⟨0, 1, 0, 2, 3⟩ : Inputs).rst = 0 ∧ (⟨0, 1, 0, 2, 3⟩ : Inputs).inValid = 1 := by decide
theorem witness_SettledForgetsThePast_reset :
    (State.mk 0 1 [idleDrive, resetDrive]).stimulus = (State.mk 1 2 [idleDrive, resetDrive]).stimulus ∧
    (State.mk 0 1 [idleDrive, resetDrive]).settledWithin 2 = true := by decide
theorem witness_SettledForgetsThePast_request :
    (State.mk 0 1 [requestDrive 0]).stimulus = (State.mk 1 2 [requestDrive 0]).stimulus ∧
    (State.mk 0 1 [requestDrive 0]).settledWithin 1 = true := by decide
theorem witness_DrivenIsKept : (State.mk 0 1 [idleDrive, resetDrive, requestDrive 0]).driven := by
  unfold State.driven; decide
theorem witness_ResponsesInOrder : (State.mk 0 1 [requestDrive 1, idleDrive, requestDrive 0x10000000000]).driven := by
  unfold State.driven; decide
theorem witness_ResponseAtItsEdge_request :
    (State.mk 0 1 [idleDrive, requestDrive 1]).driven ∧
    (State.mk 0 1 [idleDrive, requestDrive 1]).stimulus[1]? = some (requestDrive 1) ∧
    (requestDrive 1).accepted = some 1 := by
  unfold State.driven; decide
theorem witness_ResponseAtItsEdge_none :
    (State.mk 0 1 [idleDrive, requestDrive 1]).driven ∧
    (State.mk 0 1 [idleDrive, requestDrive 1]).stimulus[0]? = some idleDrive ∧ idleDrive.accepted = none := by
  unfold State.driven; decide
theorem witness_ResultWindow_reset :
    (State.mk 0 1 (requestDrive 1 :: (([⟨0, 0, 0, 0, 0⟩] : List Inputs).map Inputs.drive ++ resetDrive :: []))).stimulus =
      requestDrive 1 :: (([⟨0, 0, 0, 0, 0⟩] : List Inputs).map Inputs.drive ++ Inputs.drive ⟨1, 0, 0, 0, 0⟩ :: []) ∧
    (∀ i ∈ ([⟨0, 0, 0, 0, 0⟩] : List Inputs), i.rst = 0 ∧ i.inValid = 0) ∧
    ((⟨1, 0, 0, 0, 0⟩ : Inputs).rst = 1 ∨ (⟨1, 0, 0, 0, 0⟩ : Inputs).inValid = 1) := by decide
theorem witness_ResultWindow_request :
    (State.mk 0 1 [requestDrive 1, Inputs.drive ⟨0, 1, 1, 5, 0⟩]).stimulus =
      requestDrive 1 :: (([] : List Inputs).map Inputs.drive ++ Inputs.drive ⟨0, 1, 1, 5, 0⟩ :: []) ∧
    (∀ i ∈ ([] : List Inputs), i.rst = 0 ∧ i.inValid = 0) ∧
    ((⟨0, 1, 1, 5, 0⟩ : Inputs).rst = 1 ∨ (⟨0, 1, 1, 5, 0⟩ : Inputs).inValid = 1) := by decide
theorem witness_MatrixProcedure : ([2, 0, 3, 1] : List (Fin 4)).Perm [0, 1, 2, 3] := by decide
/-- P5's placement: copy 0 takes columns 0 and 1, copy 1 takes columns 2 and 3. -/
theorem witness_MatrixOnCopies_two :
    (planColumns ([#v[some 0, some 2], #v[some 1, some 3]] : ColumnPlan 2)).Perm [0, 1, 2, 3] := by decide
/-- One copy, out of order, with an idle edge between. -/
theorem witness_MatrixOnCopies_one :
    (planColumns ([#v[some 2], #v[some 0], #v[none], #v[some 3], #v[some 1]] : ColumnPlan 1)).Perm [0, 1, 2, 3] := by decide
theorem witness_BatchOnCopies :
    Config.validCount 3 = true ∧ (batchColumns [Vector.replicate 16 (0x57 : Byte)])[1 * 3 + (0 : Fin 3).val]? = some 0x57575757 := by decide

/-- Two copies, both with a request scheduled. -/
def two (a b : Bundle) : System 2 := { outputs := #v[⟨0, 1⟩, ⟨1, 2⟩], stimulus := [#v[requestDrive a, requestDrive b]] }

theorem witness_SystemIsItsCopies : Config.validCount 2 = true ∧ step ((two 0 0).view 0) = .next ⟨1, 0, []⟩ ∧
    (two 0 0).step = .next { outputs := #v[⟨1, 0⟩, ⟨1, 0⟩], stimulus := [] } := ⟨by decide, rfl, rfl⟩
theorem witness_CopiesShareNothing :
    (two 0 0).view 0 = (two 0 0x100DB135345).view 0 ∧
    (two 0 0).step = .next { outputs := #v[⟨1, 0⟩, ⟨1, 0⟩], stimulus := [] } ∧
    (two 0 0x100DB135345).step = .next { outputs := #v[⟨1, 0⟩, ⟨1, 0x8E4DA1BC⟩], stimulus := [] } := ⟨by decide, rfl, rfl⟩
theorem witness_SystemDrivenIsKept : (two 0 0x100DB135345).driven := by
  unfold System.driven; decide

end Sys2Proof.Tests
end

/-! PROOFS. The edge rule, Execute and the reset values (10_state.md R29, R30, R33). -/

namespace Sys2Proof.Machine

/-! ### Decoding a bundle through its fields -/

/-- Taking the low byte of the `x` field is taking the low byte of the bundle (R42, R60). -/
theorem lowByte_reqX (req : Bundle) : lowByte (reqX req) = req.extractLsb' 0 8 := by
  rw [lowByte, reqX, BitVec.extractLsb'_extractLsb'_of_le (by decide)]

/-- R62 in the field names of R60. -/
theorem decode_eq_fields (req : Bundle) :
    decode req = if reqOp req = 0 then .gmul (lowByte (reqX req)) (reqY req) else .mixcol (reqX req) := by
  rw [lowByte_reqX]; rfl

@[simp] theorem decode_bundleOf (op : Bit) (y : Byte) (x : Word) :
    decode (bundleOf op y x) = if op = 0 then .gmul (lowByte x) y else .mixcol x := by
  rw [decode_eq_fields, reqOp_bundleOf, reqY_bundleOf, reqX_bundleOf]

/-! ### Execute -/

theorem execute_gmul (x : Word) (y : Byte) : execute 0 x y = zext32 (gfMul (lowByte x) y) := rfl

theorem execute_mixcol (x : Word) (y : Byte) : execute 1 x y = mixCol x := rfl

/-- The decoded route and R30's `Execute` from the ports give one result. -/
theorem resultOf_decode_bundleOf (op : Bit) (y : Byte) (x : Word) :
    resultOf (decode (bundleOf op y x)) = execute op x y := by
  rw [decode_bundleOf, execute]
  split
  · rfl
  · rfl

/-- Settles O11: GMUL reads `x` only through its low byte, MIXCOL does not read `y`, and decoding takes the same operands. -/
theorem executeRule : Obligations.ExecuteRule := by
  unfold Obligations.ExecuteRule
  intro op x y
  refine ⟨rfl, fun x' (hlow : lowByte x' = lowByte x) => ?_, fun y' => ?_, resultOf_decode_bundleOf op y x⟩
  · rw [execute_gmul, execute_gmul, hlow]
  · rw [execute_mixcol, execute_mixcol]

/-! ### One edge with plain input bits, by the branch of R29 -/

section PlainEdge
variable {s : State} {i : Inputs} {rest : List Drive} (hs : s.stimulus = i.drive :: rest)
include hs

theorem step_of_rst_one (hrst : i.rst = 1) : step s = .next { outValid := 0, outData := 0, stimulus := rest } := by
  have hsample : i.drive.sample = .reset := by rw [sample_inputs, if_pos hrst, if_pos hrst, ite_self]
  rw [step_at_edge hs, hsample]
  exact congrArg Host.Outcome.next (State.ext_fields rfl rfl (by simp [hs]))

theorem step_of_accepted (hrst : i.rst ≠ 1) (hvalid : i.inValid = 1) :
    step s = .next { outValid := 1, outData := execute i.inOp i.inX i.inY, stimulus := rest } := by
  have hsample : i.drive.sample = .request (bundleOf i.inOp i.inY i.inX) := by
    rw [sample_inputs, if_pos hvalid, if_neg hrst]
  rw [step_at_edge hs, hsample]
  exact congrArg Host.Outcome.next (State.ext_fields rfl (resultOf_decode_bundleOf _ _ _) (by simp [hs]))

theorem step_of_idle (hrst : i.rst ≠ 1) (hvalid : i.inValid ≠ 1) :
    step s = .next { outValid := 0, outData := s.outData, stimulus := rest } := by
  have hsample : i.drive.sample = .idle := by rw [sample_inputs, if_neg hvalid, if_neg hrst]
  rw [step_at_edge hs, hsample]
  exact congrArg Host.Outcome.next (State.ext_fields rfl rfl (by simp [hs]))

end PlainEdge

/-- Settles O10, one lemma for each branch of R29. -/
theorem edgeRule : Obligations.EdgeRule := by
  unfold Obligations.EdgeRule
  intro s i rest hs
  split
  case isTrue hrst => exact step_of_rst_one hs hrst
  case isFalse hrst =>
    split
    case isTrue hvalid => exact step_of_accepted hs hrst hvalid
    case isFalse hvalid => exact step_of_idle hs hrst hvalid

/-- Settles O31, by the reset branch of the edge rule. -/
theorem resetValues : Obligations.ResetValues := by
  unfold Obligations.ResetValues
  refine ⟨fun s i rest hs hrst => ?_, rfl, rfl⟩
  exact ⟨_, step_of_rst_one hs hrst, rfl, rfl⟩

end Sys2Proof.Machine

/-! PROOFS. Where the bytes of a GMUL response stand (20_memory.md R42). -/

namespace Sys2Proof.Machine

/-- Widening a Byte into the response keeps it in bits 7:0. -/
@[simp] theorem zext32_low (b : Byte) : (zext32 b).extractLsb' 0 8 = b := by
  rw [zext32, ← BitVec.setWidth_eq_extractLsb' (by decide), BitVec.setWidth_setWidth_of_le b (by decide), BitVec.setWidth_eq]

/-- Widening a Byte into the response leaves 0 in bits 31:8. -/
@[simp] theorem zext32_high (b : Byte) : (zext32 b).extractLsb' 8 24 = 0 := by
  apply BitVec.eq_of_getLsbD_eq
  intro i hi
  simp [zext32]

/-- Settles O21: the edge accepts `execute 0 x y`, the widened product, whose two parts the `zext32` lemmas give. -/
theorem gmulBytePositions : Obligations.GmulBytePositions := by
  unfold Obligations.GmulBytePositions
  intro s x y rest hs
  have hrst : (0 : Bit) ≠ 1 := by decide
  refine ⟨_, step_of_accepted hs hrst rfl, ?_, ?_⟩
  · rw [execute_gmul, zext32_low, lowByte]
  · rw [execute_gmul, zext32_high]

end Sys2Proof.Machine

/-! PROOFS. Every bundle is a request and the opcode bit alone selects its operation (30_encoding.md R62, R65). -/

namespace Sys2Proof.Machine

/-! ### The opcode and the decoded operation -/

/-- The opcode field of R60 as the bit R62 names. -/
theorem reqOp_eq_zero_iff (req : Bundle) : reqOp req = 0 ↔ req.getLsbD 40 = false := by
  have hbit : (reqOp req).getLsbD 0 = req.getLsbD 40 := by simp [reqOp]
  rw [← hbit]
  obtain hop | hop := BitVec.eq_zero_or_eq_one (reqOp req)
  · rw [hop]; decide
  · rw [hop]; decide

theorem decode_of_reqOp_zero {req : Bundle} (hop : reqOp req = 0) :
    decode req = .gmul (lowByte (reqX req)) (reqY req) := by
  rw [decode_eq_fields, if_pos hop]

theorem decode_of_reqOp_one {req : Bundle} (hop : reqOp req = 1) : decode req = .mixcol (reqX req) := by
  have hne : (1 : Bit) ≠ 0 := by decide
  rw [decode_eq_fields, hop, if_neg hne]

theorem reqOp_zero_iff_decode_gmul (req : Bundle) : reqOp req = 0 ↔ ∃ a b, decode req = .gmul a b := by
  refine ⟨fun hop => ⟨_, _, decode_of_reqOp_zero hop⟩, fun ⟨a, b, hdec⟩ => ?_⟩
  obtain hop | hop := BitVec.eq_zero_or_eq_one (reqOp req)
  · exact hop
  · rw [decode_of_reqOp_one hop] at hdec
    cases hdec

theorem reqOp_one_iff_decode_mixcol (req : Bundle) : reqOp req = 1 ↔ ∃ c, decode req = .mixcol c := by
  refine ⟨fun hop => ⟨_, decode_of_reqOp_one hop⟩, fun ⟨c, hdec⟩ => ?_⟩
  obtain hop | hop := BitVec.eq_zero_or_eq_one (reqOp req)
  · rw [decode_of_reqOp_zero hop] at hdec
    cases hdec
  · exact hop

/-- Settles O1: the opcode field that `decode` tests is bit 40. -/
theorem decodeByOpcodeBit : Obligations.DecodeByOpcodeBit := by
  unfold Obligations.DecodeByOpcodeBit
  intro req
  simp only [decode, reqOp_eq_zero_iff]

/-! ### A bundle or an idle edge on the ports -/

/-- Any bundle presented at the next edge is accepted, with `Execute` of its three fields as the result. -/
theorem step_load_requestDrive (s : State) (req : Bundle) (rest : List Drive) :
    step (s.load (requestDrive req :: rest)) =
      .next { outValid := 1, outData := execute (reqOp req) (reqX req) (reqY req), stimulus := rest } := by
  have hrst : (0 : Bit) ≠ 1 := by decide
  exact step_of_accepted (State.load_stimulus s _) hrst rfl

/-- R65: bits 31:8 of a GMUL have no effect. -/
theorem step_gmul_ignores_high {req req' : Bundle} (s : State) (rest : List Drive) (hop : reqOp req = 0) (hop' : reqOp req' = 0)
    (hlow : req.extractLsb' 0 8 = req'.extractLsb' 0 8) (hy : reqY req = reqY req') :
    step (s.load (requestDrive req :: rest)) = step (s.load (requestDrive req' :: rest)) := by
  have hx : lowByte (reqX req) = lowByte (reqX req') := by rw [lowByte_reqX, lowByte_reqX, hlow]
  rw [step_load_requestDrive, step_load_requestDrive, hop, hop', execute_gmul, execute_gmul, hx, hy]

/-- R65: bits 39:32 of a MIXCOL have no effect. -/
theorem step_mixcol_ignores_y {req req' : Bundle} (s : State) (rest : List Drive) (hop : reqOp req = 1) (hop' : reqOp req' = 1)
    (hx : reqX req = reqX req') :
    step (s.load (requestDrive req :: rest)) = step (s.load (requestDrive req' :: rest)) := by
  rw [step_load_requestDrive, step_load_requestDrive, hop, hop', execute_mixcol, execute_mixcol, hx]

/-- R65: without `in_valid` only `rst` is read, so no bundle bit has an effect. -/
theorem step_ignores_bundle_of_inValid_zero (s : State) (rest : List Drive) {i j : Inputs} (hrst : i.rst = j.rst)
    (hi : i.inValid = 0) (hj : j.inValid = 0) :
    step (s.load (i.drive :: rest)) = step (s.load (j.drive :: rest)) := by
  have hload (k : Inputs) : (s.load (k.drive :: rest)).stimulus = k.drive :: rest := State.load_stimulus s _
  have hne : (0 : Bit) ≠ 1 := by decide
  by_cases hreset : j.rst = 1
  · rw [step_of_rst_one (hload i) (hrst.trans hreset), step_of_rst_one (hload j) hreset]
  · rw [step_of_idle (hload i) (hrst ▸ hreset) (hi ▸ hne), step_of_idle (hload j) hreset (hj ▸ hne)]
    rfl

/-- Settles O4: the two halves by opcode, acceptance of every bundle, and one lemma for each kind of ignored bits. -/
theorem everyBundleIsARequest : Obligations.EveryBundleIsARequest := by
  unfold Obligations.EveryBundleIsARequest
  refine ⟨fun req => ⟨reqOp_zero_iff_decode_gmul req, reqOp_one_iff_decode_mixcol req, fun s rest => ?_⟩, ?_, ?_, ?_⟩
  · exact ⟨_, step_load_requestDrive s req rest, rfl⟩
  · exact fun _ _ s rest => step_gmul_ignores_high s rest
  · exact fun _ _ s rest => step_mixcol_ignores_y s rest
  · exact fun s rest _ _ => step_ignores_bundle_of_inValid_zero s rest

end Sys2Proof.Machine

/-! PROOFS. Doubling, and the laws of the product in GF(2^8) (40_gf_multiply.md R82, R85, R86). The Bytes are a module over the
polynomials in x: addition is XOR and x acts as `xtime`. A map that respects both passes through the product, and this with
`gfMul 1 b = b` gives commutativity and associativity. Inverses come from squaring, whose eighth iterate is the identity. -/

namespace Sys2Proof.Machine

/-! ### Doubling -/

/-- A Byte shifted in 9 bits is the bit shifted out on top of the truncated shift. -/
theorem setWidth_nine_shiftLeft (x : Byte) : x.setWidth 9 <<< 1 = BitVec.cons (x.getLsbD 7) (x <<< 1) := by
  have hout : (x.setWidth 9 <<< 1).getLsbD 8 = x.getLsbD 7 := by simp
  have hlow : (x.setWidth 9 <<< 1).setWidth 8 = x <<< 1 := by
    rw [BitVec.setWidth_shiftLeft_of_le (by decide), BitVec.setWidth_setWidth_of_le x (by decide), BitVec.setWidth_eq]
  calc x.setWidth 9 <<< 1
    _ = (x.setWidth 9 <<< 1).setWidth 9 := (BitVec.setWidth_eq _).symm
    _ = BitVec.cons (x.getLsbD 7) (x <<< 1) := by rw [BitVec.setWidth_succ, hout, hlow]

theorem setWidth_nine (x : Byte) : x.setWidth 9 = BitVec.cons false x := by
  rw [BitVec.setWidth_succ, BitVec.getLsbD_of_ge x 8 le_rfl, BitVec.setWidth_eq]

/-- Settles O23: in 9 bits the shift has the bit shifted out on top, and 0x11B is a 1 on top of 0x1B. -/
theorem doublingReduces : Obligations.DoublingReduces := by
  unfold Obligations.DoublingReduces
  intro x
  have hpoly : 0x11B#9 = BitVec.cons true 0x1B#8 := by decide
  have hout : (BitVec.cons (x.getLsbD 7) (x <<< 1)).getLsbD 8 = x.getLsbD 7 := by
    rw [BitVec.getLsbD_cons, if_pos rfl]
  refine ⟨rfl, ?_⟩
  rw [setWidth_nine, setWidth_nine_shiftLeft, hout, xtime, hpoly]
  cases x.getLsbD 7
  · rw [if_neg Bool.false_ne_true, if_neg Bool.false_ne_true]
  · rw [if_pos rfl, if_pos rfl, BitVec.cons_xor_cons, Bool.xor_self]

/-! ### The product one bit at a time -/

/-- The accumulator of R81 after its first `n` steps. -/
def gfMulSteps (n : Nat) (a b : Byte) : Byte := ((List.range n).foldl (gfMulStep b) (0, a)).1

theorem gfMulSteps_eight (a b : Byte) : gfMulSteps 8 a b = gfMul a b := rfl

theorem gfMulSteps_zero (a b : Byte) : gfMulSteps 0 a b = 0 := rfl

theorem foldl_gfMulStep_snd (n : Nat) (a b : Byte) :
    ((List.range n).foldl (gfMulStep b) (0, a)).2 = xtime^[n] a := by
  induction n with
  | zero => rfl
  | succ n ih => rw [List.range_succ, List.foldl_concat, gfMulStep_snd, ih, Function.iterate_succ_apply']

theorem gfMulSteps_succ (n : Nat) (a b : Byte) :
    gfMulSteps (n + 1) a b = gfMulSteps n a b ^^^ (if b.getLsbD n then xtime^[n] a else 0) := by
  rw [gfMulSteps, List.range_succ, List.foldl_concat, gfMulStep_fst, foldl_gfMulStep_snd, ← gfMulSteps]
  split
  · rfl
  · exact (BitVec.xor_zero).symm

theorem gfMul_zero (a : Byte) : gfMul a 0 = 0 := rfl

/-- Only step 0 adds, and it adds `a` to 0. -/
theorem gfMul_one (a : Byte) : gfMul a 1 = a := BitVec.zero_xor

/-- Only step 1 adds, and it adds the operand doubled once to 0. -/
theorem gfMul_two (a : Byte) : gfMul a 2 = xtime a := BitVec.zero_xor

/-- The first eight powers of x need no reduction. -/
theorem xtime_iterate_one : ∀ n < 8, xtime^[n] 1 = BitVec.twoPow 8 n := by decide

/-- Multiplying 1 by `b` collects the bits of `b`, lowest first. -/
theorem gfMulSteps_one_getLsbD (b : Byte) (k n : Nat) (hn : n ≤ 8) :
    (gfMulSteps n 1 b).getLsbD k = (decide (k < n) && b.getLsbD k) := by
  induction n with
  | zero => simp [gfMulSteps_zero]
  | succ n ih =>
    have hlt : n < 8 := hn
    have hterm : (if b.getLsbD n then BitVec.twoPow 8 n else 0).getLsbD k = (decide (n = k) && b.getLsbD n) := by
      cases b.getLsbD n <;> simp [BitVec.getLsbD_twoPow, hlt]
    rw [gfMulSteps_succ, BitVec.getLsbD_xor, ih (by omega), xtime_iterate_one n hlt, hterm]
    obtain rfl | hne := eq_or_ne n k
    · simp
    · simp [hne, show k < n + 1 ↔ k < n by omega]

theorem one_gfMul (b : Byte) : gfMul 1 b = b := by
  apply BitVec.eq_of_getLsbD_eq
  intro k hk
  rw [← gfMulSteps_eight, gfMulSteps_one_getLsbD b k 8 le_rfl, decide_eq_true hk, Bool.true_and]

/-! ### Maps that respect XOR and doubling -/

/-- A map of Bytes that is linear over the polynomials in x. -/
structure XtimeLinear (f : Byte → Byte) : Prop where
  map_xor : ∀ a b, f (a ^^^ b) = f a ^^^ f b
  map_xtime : Function.Commute f xtime

theorem XtimeLinear.map_zero {f : Byte → Byte} (hf : XtimeLinear f) : f 0 = 0 := by
  have h := hf.map_xor 0 0
  rwa [BitVec.xor_self, BitVec.xor_self] at h

/-- Such a map passes through each step of the product. -/
theorem XtimeLinear.map_gfMulSteps {f : Byte → Byte} (hf : XtimeLinear f) (n : Nat) (a b : Byte) :
    f (gfMulSteps n a b) = gfMulSteps n (f a) b := by
  induction n with
  | zero => exact hf.map_zero
  | succ n ih =>
    rw [gfMulSteps_succ, gfMulSteps_succ, hf.map_xor, ih, apply_ite f, hf.map_xtime.iterate_right n a, hf.map_zero]

theorem XtimeLinear.map_gfMul {f : Byte → Byte} (hf : XtimeLinear f) (a b : Byte) : f (gfMul a b) = gfMul (f a) b :=
  hf.map_gfMulSteps 8 a b

theorem xtimeLinear_xtime : XtimeLinear xtime := ⟨xtime_xor, Function.Commute.refl xtime⟩

theorem gfMulSteps_xor_left (n : Nat) (a c b : Byte) :
    gfMulSteps n (a ^^^ c) b = gfMulSteps n a b ^^^ gfMulSteps n c b := by
  have hiter (n : Nat) : xtime^[n] (a ^^^ c) = xtime^[n] a ^^^ xtime^[n] c :=
    Function.Semiconj₂.iterate (op := (· ^^^ ·)) xtime_xor n a c
  induction n with
  | zero => exact BitVec.xor_self.symm
  | succ n ih =>
    rw [gfMulSteps_succ, gfMulSteps_succ, gfMulSteps_succ, ih, hiter]
    split
    · ac_rfl
    · simp

theorem gfMul_xor_left (a c b : Byte) : gfMul (a ^^^ c) b = gfMul a b ^^^ gfMul c b :=
  gfMulSteps_xor_left 8 a c b

theorem xtimeLinear_gfMul (b : Byte) : XtimeLinear (gfMul · b) :=
  ⟨fun a c => gfMul_xor_left a c b, fun a => (xtimeLinear_xtime.map_gfMul a b).symm⟩

/-! ### The ring laws -/

theorem gfMul_right_comm (a b c : Byte) : gfMul (gfMul a b) c = gfMul (gfMul a c) b :=
  (xtimeLinear_gfMul c).map_gfMul a b

theorem gfMul_comm (a b : Byte) : gfMul a b = gfMul b a := by
  rw [← one_gfMul a, gfMul_right_comm, one_gfMul, one_gfMul]

theorem gfMul_assoc (a b c : Byte) : gfMul (gfMul a b) c = gfMul a (gfMul b c) :=
  calc gfMul (gfMul a b) c
    _ = gfMul (gfMul b a) c := by rw [gfMul_comm a b]
    _ = gfMul (gfMul b c) a := gfMul_right_comm b a c
    _ = gfMul a (gfMul b c) := gfMul_comm _ _

theorem gfMul_xor_right (a b c : Byte) : gfMul a (b ^^^ c) = gfMul a b ^^^ gfMul a c := by
  rw [gfMul_comm, gfMul_xor_left, gfMul_comm b, gfMul_comm c]

/-- Settles O26: commutativity is a ring law, the other three read off the bits of a fixed second factor. -/
theorem sourceLaws : Obligations.SourceLaws := by
  unfold Obligations.SourceLaws
  exact ⟨gfMul_comm, gfMul_zero, gfMul_one, fun x => (gfMul_two x).symm⟩

/-! ### Squaring -/

/-- The square of a Byte. -/
def gfSq (a : Byte) : Byte := gfMul a a

theorem gfSq_xor (a b : Byte) : gfSq (a ^^^ b) = gfSq a ^^^ gfSq b := by
  have hcancel : gfMul b a ^^^ (gfMul b a ^^^ gfSq b) = gfSq b := by
    rw [← BitVec.xor_assoc, BitVec.xor_self, BitVec.zero_xor]
  rw [gfSq, gfMul_xor_left, gfMul_xor_right, gfMul_xor_right, gfMul_comm a b, ← gfSq, ← gfSq, BitVec.xor_assoc, hcancel]

theorem gfSq_gfMul (a b : Byte) : gfSq (gfMul a b) = gfMul (gfSq a) (gfSq b) := by
  rw [gfSq, ← gfMul_assoc, gfMul_right_comm a b a, gfMul_assoc (gfMul a a), ← gfSq, ← gfSq]

/-- Squaring eight times is additive and multiplicative and fixes 2, so it is linear; it fixes 1, so it is the identity. -/
theorem gfSq_iterate_eight (a : Byte) : gfSq^[8] a = a := by
  have hmul (a b : Byte) : gfSq^[8] (gfMul a b) = gfMul (gfSq^[8] a) (gfSq^[8] b) :=
    Function.Semiconj₂.iterate (op := gfMul) gfSq_gfMul 8 a b
  have htwo : gfSq^[8] 2 = 2 := by decide
  have hlin : XtimeLinear gfSq^[8] :=
    ⟨Function.Semiconj₂.iterate (op := (· ^^^ ·)) gfSq_xor 8, fun a => by rw [← gfMul_two, hmul, htwo, gfMul_two]⟩
  have hone : gfSq^[8] 1 = 1 := by decide
  rw [← one_gfMul a, hlin.map_gfMul, hone]

/-- The only idempotents are 0 and 1, so the ring is not a product of smaller ones. -/
theorem eq_zero_or_one_of_gfSq_eq : ∀ a : Byte, gfSq a = a → a = 0 ∨ a = 1 := by decide

/-! ### Inverses -/

/-- The power of `a` with exponent `2^n - 1`. -/
def gfPowMersenne (a : Byte) : Nat → Byte
  | 0 => 1
  | n + 1 => gfMul a (gfSq (gfPowMersenne a n))

theorem gfMul_gfPowMersenne (a : Byte) (n : Nat) : gfMul a (gfPowMersenne a n) = gfSq^[n] a := by
  induction n with
  | zero => exact gfMul_one a
  | succ n ih =>
    rw [gfPowMersenne, ← gfMul_assoc, ← gfSq, ← gfSq_gfMul, ih, Function.iterate_succ_apply']

/-- `a^255` is idempotent, as `a^256 = a`. -/
theorem gfSq_gfPowMersenne_eight (a : Byte) : gfSq (gfPowMersenne a 8) = gfPowMersenne a 8 :=
  calc gfMul (gfMul a (gfSq (gfPowMersenne a 7))) (gfPowMersenne a 8)
    _ = gfMul (gfMul a (gfPowMersenne a 8)) (gfSq (gfPowMersenne a 7)) := gfMul_right_comm _ _ _
    _ = gfPowMersenne a 8 := by rw [gfMul_gfPowMersenne, gfSq_iterate_eight, ← gfPowMersenne]

/-- The inverse of a Byte other than 0, as its power `a^254`. -/
def gfInv (a : Byte) : Byte := gfSq (gfPowMersenne a 7)

theorem gfMul_gfInv {a : Byte} (ha : a ≠ 0) : gfMul a (gfInv a) = 1 := by
  change gfPowMersenne a 8 = 1
  obtain h0 | h1 := eq_zero_or_one_of_gfSq_eq _ (gfSq_gfPowMersenne_eight a)
  · have hself := gfMul_gfPowMersenne a 8
    rw [h0, gfMul_zero, gfSq_iterate_eight] at hself
    exact absurd hself.symm ha
  · exact h1

/-- A factor other than 0 cancels. -/
theorem gfMul_left_cancel {a b c : Byte} (ha : a ≠ 0) (h : gfMul a b = gfMul a c) : b = c := by
  have hinv (x : Byte) : gfMul (gfInv a) (gfMul a x) = x := by
    rw [← gfMul_assoc, gfMul_comm (gfInv a), gfMul_gfInv ha, one_gfMul]
  rw [← hinv b, h, hinv]

theorem eq_zero_or_eq_zero_of_gfMul_eq_zero (a b : Byte) (h : gfMul a b = 0) : a = 0 ∨ b = 0 :=
  or_iff_not_imp_left.mpr fun ha => gfMul_left_cancel ha (h.trans (gfMul_zero a).symm)

/-- Doubling is undone by multiplication with 0x8D, the inverse of 2. -/
theorem xtime_bijective : Function.Bijective xtime := by
  have hinv : gfMul 2 0x8D = 1 := by decide
  refine Function.bijective_iff_has_inverse.mpr ⟨(gfMul · 0x8D), fun a => ?_, fun a => ?_⟩
  · change gfMul (xtime a) 0x8D = a
    rw [← gfMul_two, gfMul_assoc, hinv, gfMul_one]
  · rw [← gfMul_two, gfMul_right_comm, gfMul_assoc, hinv, gfMul_one]

/-- Settles O27 from the ring laws, with `gfInv` for the inverses. -/
theorem fieldLaws : Obligations.FieldLaws := by
  unfold Obligations.FieldLaws
  refine ⟨fun a b c => gfMul_xor_left a c b, gfMul_assoc, eq_zero_or_eq_zero_of_gfMul_eq_zero, fun a ha => ?_, by decide,
    xtime_bijective⟩
  exact ⟨gfInv a, gfMul_gfInv ha, fun b' hb' => gfMul_left_cancel ha (hb'.trans (gfMul_gfInv ha).symm)⟩

end Sys2Proof.Machine

/-! PROOFS. The column transform as a circulant matrix, and its linearity (41_mixcolumns.md R101, R103, R105). -/

namespace Sys2Proof.Machine

/-! ### The coefficients 2 and 3 -/

theorem two_gfMul (x : Byte) : gfMul 2 x = xtime x := by rw [gfMul_comm, gfMul_two]

/-- 3 is 2 XOR 1, and the product distributes over XOR. -/
theorem three_gfMul (x : Byte) : gfMul 3 x = xtime x ^^^ x :=
  calc gfMul 3 x
    _ = gfMul 2 x ^^^ gfMul 1 x := gfMul_xor_left 2 1 x
    _ = xtime x ^^^ x := by rw [two_gfMul, one_gfMul]

/-! ### The rows of the matrix -/

/-- R100 for any lane, indices mod 4. -/
theorem lane_mixCol (i : Fin 4) (w : Word) :
    lane i (mixCol w) =
      xtime (lane i w) ^^^ lane (i + 1) w ^^^ xtime (lane (i + 1) w) ^^^ lane (i + 2) w ^^^ lane (i + 3) w :=
  match i with
  | 0 => lane0_mixCol w
  | 1 => lane1_mixCol w
  | 2 => lane2_mixCol w
  | 3 => lane3_mixCol w

theorem lane_mixCol_eq_gfMul (i : Fin 4) (w : Word) :
    lane i (mixCol w) = gfMul 2 (lane i w) ^^^ gfMul 3 (lane (i + 1) w) ^^^ lane (i + 2) w ^^^ lane (i + 3) w := by
  rw [lane_mixCol, two_gfMul, three_gfMul]
  ac_rfl

theorem lane_mixCol_eq_circulantRow (i : Fin 4) (w : Word) : lane i (mixCol w) = circulantRow 2 3 1 1 i w := by
  rw [lane_mixCol_eq_gfMul, circulantRow, one_gfMul, one_gfMul]

/-- Settles O28: R100 holds of every lane, and its two summands with lane i+1 are the product with 3. -/
theorem mixcolIsTheCirculant : Obligations.MixcolIsTheCirculant := by
  unfold Obligations.MixcolIsTheCirculant
  exact ⟨fun w i => ⟨lane_mixCol_eq_gfMul i w, lane_mixCol_eq_circulantRow i w⟩,
    fun x => ⟨(gfMul_two x).symm, two_gfMul x, three_gfMul x⟩⟩

/-! ### Linearity -/

/-- A row is linear whatever its coefficients. -/
theorem circulantRow_xor (k0 k1 k2 k3 : Byte) (i : Fin 4) (v w : Word) :
    circulantRow k0 k1 k2 k3 i (v ^^^ w) = circulantRow k0 k1 k2 k3 i v ^^^ circulantRow k0 k1 k2 k3 i w := by
  simp only [circulantRow, lane_xor, gfMul_xor_right]
  ac_rfl

/-- Settles O29: each lane of the transform is a row of the circulant, and rows are linear. -/
theorem mixcolIsLinear : Obligations.MixcolIsLinear := by
  unfold Obligations.MixcolIsLinear
  intro c1 c2
  have hlane (i : Fin 4) : lane i (mixCol (c1 ^^^ c2)) = lane i (mixCol c1 ^^^ mixCol c2) := by
    rw [lane_xor, lane_mixCol_eq_circulantRow, lane_mixCol_eq_circulantRow, lane_mixCol_eq_circulantRow, circulantRow_xor]
  exact word_ext_lanes (hlane 0) (hlane 1) (hlane 2) (hlane 3)

end Sys2Proof.Machine

/-! PROOFS. No request raises an exception (60_exceptions.md R120). -/

namespace Sys2Proof.Machine

/-- R30's `Execute` on the fields of any bundle is the result of what R62 decodes it to. -/
theorem execute_fields (req : Bundle) : execute (reqOp req) (reqX req) (reqY req) = resultOf (decode req) := by
  rw [decode_eq_fields, execute]
  split
  · rfl
  · rfl

/-- A request on the ports completes with its own result at its own edge, whatever the registers held. -/
theorem step_of_requestDrive {s : State} {req : Bundle} {rest : List Drive} (hs : s.stimulus = requestDrive req :: rest) :
    step s = .next { outValid := 1, outData := resultOf (decode req), stimulus := rest } := by
  have hrst : (0 : Bit) ≠ 1 := by decide
  rw [← execute_fields]
  exact step_of_accepted hs hrst rfl

/-- Settles O14: each meaning accepts its result, and the machine has no reason to fault with. -/
theorem noException : Obligations.NoException := by
  unfold Obligations.NoException
  refine ⟨fun i s => ?_, fun s req rest hs => step_of_requestDrive hs, fun s r => ?_⟩
  · rw [exec_result]; rfl
  · exact nomatch r

end Sys2Proof.Machine

/-! PROOFS. Decoding an encoding and encoding a decoded bundle, table words and the statements of the stimulus language
(30_encoding.md R60, R62, R65 to R67). -/

namespace Sys2Proof.Machine

/-! ### Decode and encode -/

/-- The low byte of an `x` field under any ignored bits (R65) is its factor. -/
@[simp] theorem lowByte_append (hi : BitVec 24) (a : Byte) : lowByte (hi ++ a) = a := by
  apply BitVec.eq_of_getLsbD_eq
  intro k hk
  rw [lowByte, BitVec.getLsbD_extractLsb', Nat.zero_add, highLow_getLsbD, if_pos hk, decide_eq_true hk, Bool.true_and]

theorem decode_encodeWith (hi : BitVec 24) (y : Byte) (i : Instr) : decode (encodeWith hi y i) = i := by
  cases i with
  | gmul a b => rw [encodeWith, decode_bundleOf, if_pos rfl, lowByte_append]
  | mixcol c =>
    have hop : (1 : Bit) ≠ 0 := by decide
    rw [encodeWith, decode_bundleOf, if_neg hop]

/-- The table-word decoder reads exactly the bundles, whatever number of bits is stated (R61). -/
theorem decodeTableWord_of_lt (nbits : Nat) {w : Nat} (hw : w < 2 ^ 41) :
    decodeTableWord nbits w = some (decode (BitVec.ofNat 41 w)) := by
  rw [decodeTableWord, decodeNat, isBundle, decide_eq_true hw, if_pos rfl]

theorem decodeTableWord_toNat (nbits : Nat) (req : Bundle) : decodeTableWord nbits req.toNat = some (decode req) := by
  rw [decodeTableWord_of_lt nbits req.isLt, BitVec.ofNat_toNat, BitVec.setWidth_eq]

/-- Settles O2: the opcode written selects the constructor again, and the field lemmas give its operands back. -/
theorem decodeOfEncode : Obligations.DecodeOfEncode := by
  unfold Obligations.DecodeOfEncode
  intro i hi y
  refine ⟨decode_encodeWith hi y i, fun nbits => ?_⟩
  rw [decodeTableWord_toNat, decode_encodeWith]

/-- A bundle is its three fields (R60). -/
theorem bundleOf_fields (req : Bundle) : bundleOf (reqOp req) (reqY req) (reqX req) = req := by
  apply BitVec.eq_of_getLsbD_eq
  intro k hk
  rw [bundleOf_getLsbD]
  split
  case isTrue hx => simp [reqX, hx]
  case isFalse hx =>
    split
    case isTrue hy => simp [reqY, show k - 32 < 8 by omega, show 32 + (k - 32) = k by omega]
    case isFalse hy => simp [reqOp, show k = 40 by omega]

/-- The `x` field of a GMUL is its ignored bits over its factor. -/
theorem high_append_lowByte (req : Bundle) : req.extractLsb' 8 24 ++ lowByte (reqX req) = reqX req := by
  apply BitVec.eq_of_getLsbD_eq
  intro k hk
  rw [highLow_getLsbD, lowByte_reqX]
  split
  case isTrue hlow => simp [reqX, hlow, hk]
  case isFalse hlow => simp [reqX, hk, show k - 8 < 24 by omega, show 8 + (k - 8) = k by omega]

/-- Settles O3: the bits `decode` drops are exactly those `encodeWith` takes back. -/
theorem encodeOfDecode : Obligations.EncodeOfDecode := by
  unfold Obligations.EncodeOfDecode
  intro req
  obtain hop | hop : reqOp req = 0 ∨ reqOp req = 1 := BitVec.eq_zero_or_eq_one _
  · rw [decode_of_reqOp_zero hop, encodeWith, high_append_lowByte, ← hop, bundleOf_fields]
  · rw [decode_of_reqOp_one hop, encodeWith, ← reqY, ← hop, bundleOf_fields]

/-- Settles O5: the table's words are literals, so the decoder computes each. -/
theorem workedEncodings : Obligations.WorkedEncodings := by
  unfold Obligations.WorkedEncodings
  decide

/-! ### Statements -/

/-- Settles O6: each row of R66's table is an equation of `assemble`. -/
theorem statementDrives : Obligations.StatementDrives := by
  unfold Obligations.StatementDrives
  exact ⟨fun _ _ => rfl, fun _ _ _ _ => ⟨rfl, rfl⟩, fun _ => rfl, rfl, rfl, fun _ _ _ _ _ => rfl⟩

theorem disassemble_gmul (y : Byte) (x : Word) : disassemble (bundleOf 0 y x) = .gmul (lowByte x) y := by
  rw [disassemble, decode_bundleOf, if_pos rfl]

/-- The disassembler prints one of the two instructions. -/
theorem disassemble_ne_xtime (req : Bundle) (x : Byte) : disassemble req ≠ .xtime x := by
  rw [disassemble]
  cases decode req with
  | gmul a b => exact nofun
  | mixcol c => exact nofun

/-- Settles O7: XTIME has the drive of a GMUL, and the bundle on it prints as that GMUL. -/
theorem xtimeIsAPseudoInstruction : Obligations.XtimeIsAPseudoInstruction := by
  unfold Obligations.XtimeIsAPseudoInstruction
  refine ⟨fun x => ⟨rfl, rfl, ?_⟩, disassemble_ne_xtime⟩
  rw [disassemble_gmul, lowByte, zext32_low]

end Sys2Proof.Machine

/-! PROOFS. One edge: what each sampling of the ports does, which edges are refused, and the two meanings (10_state.md R24, R29,
60_exceptions.md R120, R123, R126, 70_reset_and_hazards.md R141, R143, R150). -/

namespace Sys2Proof.Machine

/-! ### No edge -/

theorem step_of_no_edge {s : State} (hs : s.stimulus = []) : step s = .next s := by
  rw [step, nextAction_nil hs]

/-- Settles O13: without an edge there is no action. -/
theorem noEdgeHoldsState : Obligations.NoEdgeHoldsState := by
  unfold Obligations.NoEdgeHoldsState
  exact fun _ hs => step_of_no_edge hs

/-! ### The two meanings -/

/-- Settles O17: the accepted result is the widened product. -/
theorem gmulCompletes : Obligations.GmulCompletes := by
  unfold Obligations.GmulCompletes
  exact fun a b s => exec_result (.gmul a b) s

/-- Settles O18: the accepted result is the transformed column. -/
theorem mixcolCompletes : Obligations.MixcolCompletes := by
  unfold Obligations.MixcolCompletes
  exact fun c s => exec_result (.mixcol c) s

theorem eq_accept_of_exec {i : Instr} {s t : State} (h : exec i s = .next t) : t = s.accept (resultOf i) := by
  rw [exec_result] at h
  exact (Host.Outcome.next.inj h).symm

/-- Settles O16: the state an instruction leaves is its result accepted, which keeps the drives, and whose outputs are the result's. -/
theorem instructionFrame : Obligations.InstructionFrame := by
  unfold Obligations.InstructionFrame
  intro i s t h
  obtain rfl := eq_accept_of_exec h
  refine ⟨State.accept_stimulus _ _, State.accept_outValid _ _, fun s' t' h' => ?_⟩
  obtain rfl := eq_accept_of_exec h'
  rfl

/-! ### A request on the ports -/

/-- Settles O8: with `rst = 0` and `in_valid = 1` the ports are sampled as the request of their bundle. -/
theorem stepRunsDecoded : Obligations.StepRunsDecoded := by
  unfold Obligations.StepRunsDecoded
  intro s op x y rest hs
  have haction : s.nextAction = some (.request (bundleOf op y x)) := nextAction_cons hs
  have hconsume : s.consume = { s with stimulus := rest } := by rw [State.consume, hs, List.tail_cons]
  rw [step, haction, hconsume]

/-- Settles O9: both the decoder and the step read the bundle of the word's 41 bits. -/
theorem presentedWordRuns : Obligations.PresentedWordRuns := by
  unfold Obligations.PresentedWordRuns
  intro s nbits w hw
  refine ⟨_, decodeTableWord_of_lt nbits hw, ?_⟩
  rw [step_of_requestDrive (State.withFetchWord_stimulus s nbits w), exec_result]
  rfl

/-! ### Which edges are refused -/

/-- R150's condition, port by port. -/
theorem defined_iff (d : Drive) :
    d.defined = true ↔
      d.rst.isSome = true ∧ d.inValid.isSome = true ∧
        (d.inValid = some 1 → d.inOp.isSome = true ∧ d.inX.isSome = true ∧ d.inY.isSome = true) := by
  obtain ⟨rst, _ | v, op, x, y⟩ := d
  · simp [Drive.defined]
  · obtain rfl | rfl := BitVec.eq_zero_or_eq_one v
    · simp [Drive.defined]
    · simp [Drive.defined, and_assoc]

/-- With `in_valid = 0` only `rst` is read. -/
theorem sample_of_inValid_zero (r : Bit) (op : Option Bit) (x : Option Word) (y : Option Byte) :
    Drive.sample ⟨some r, some 0, op, x, y⟩ = if r = 1 then .reset else .idle := rfl

/-- Ports that meet R150 are sampled as one of the three kinds of edge. -/
theorem sample_ne_undefinedInput {d : Drive} (hd : d.defined = true) (r : Refusal) : d.sample ≠ .undefinedInput r :=
  fun h => Bool.false_ne_true ((sample_undefined h).symm.trans hd)

/-- Ports that break R150 are sampled as undefined. -/
theorem sample_of_not_defined {d : Drive} (hd : ¬ d.defined = true) : ∃ r, d.sample = .undefinedInput r := by
  obtain ⟨_ | rst, _ | v, op, x, y⟩ := d
  · exact ⟨_, rfl⟩
  · exact ⟨_, rfl⟩
  · exact ⟨_, rfl⟩
  · obtain rfl | rfl := BitVec.eq_zero_or_eq_one v
    · exact absurd rfl hd
    · match op, x, y with
      | none, _, _ => exact ⟨_, rfl⟩
      | some _, none, _ => exact ⟨_, rfl⟩
      | some _, some _, none => exact ⟨_, rfl⟩
      | some _, some _, some _ => exact absurd rfl hd

theorem step_refused_iff {s : State} {d : Drive} {rest : List Drive} (hs : s.stimulus = d :: rest) :
    (∃ r, step s = .refused r) ↔ ¬ d.defined = true := by
  constructor
  case mp =>
    rintro ⟨r, hr⟩ hd
    rw [step_at_edge hs] at hr
    split at hr
    case h_1 r' hsample => exact sample_ne_undefinedInput hd r' hsample
    all_goals cases hr
  case mpr =>
    intro hd
    obtain ⟨r, hr⟩ := sample_of_not_defined hd
    exact ⟨r, by rw [step_at_edge hs, hr]⟩

/-- Settles O12: the refused edges are those whose ports break R150, and at `in_valid = 0` the sampling reads only `rst`. -/
theorem undefinedInputsRefused : Obligations.UndefinedInputsRefused := by
  unfold Obligations.UndefinedInputsRefused
  refine ⟨fun s d rest hs => ?_, fun s r op op' x x' y y' rest => ?_⟩
  · rw [step_refused_iff hs, defined_iff]
  · rw [step_at_edge (State.load_stimulus s _), step_at_edge (State.load_stimulus s _), sample_of_inValid_zero,
      sample_of_inValid_zero]
    rfl

/-! ### The frame of an edge -/

/-- With `rst = 0` and `in_valid = 0` the edge is idle. -/
theorem sample_idle {d : Drive} (hrst : d.rst = some 0) (hvalid : d.inValid = some 0) : d.sample = .idle := by
  obtain ⟨rst, v, op, x, y⟩ := d
  obtain rfl : rst = some 0 := hrst
  obtain rfl : v = some 0 := hvalid
  rfl

/-- Settles O15, by the four ways the ports can be sampled. -/
theorem stepFrame : Obligations.StepFrame := by
  unfold Obligations.StepFrame
  intro s t d rest hs ht
  have hrest : t.stimulus = rest := by rw [step_stimulus ht, hs, List.tail_cons]
  have hheld (hne : d.sample ≠ .idle) (hrst : d.rst = some 0) (hvalid : d.inValid = some 0) : t.outData = s.outData :=
    absurd (sample_idle hrst hvalid) hne
  rw [step_at_edge hs] at ht
  generalize d.sample = action at ht hheld ⊢
  cases action with
  | undefinedInput r => cases ht
  | reset =>
    cases ht
    exact ⟨by simp, hheld nofun, hrest⟩
  | idle =>
    cases ht
    exact ⟨by simp, fun _ _ => rfl, hrest⟩
  | request req =>
    cases ht
    exact ⟨by simp, hheld nofun, hrest⟩

/-! ### Reset and power-up -/

/-- Settles O32: the reset branch reads nothing of the request. -/
theorem resetWins : Obligations.ResetWins := by
  unfold Obligations.ResetWins
  intro s op x y rest
  have hreset (v : Bit) : step (s.load (Inputs.drive ⟨1, v, op, x, y⟩ :: rest)) = .next ⟨0, 0, rest⟩ :=
    step_of_rst_one (State.load_stimulus s _) rfl
  exact ⟨(hreset 1).trans (hreset 0).symm, hreset 1, rfl⟩

/-- Settles O34: the reset branch of the edge rule, then its request branch. -/
theorem oneResetEdgeSuffices : Obligations.OneResetEdgeSuffices := by
  unfold Obligations.OneResetEdgeSuffices
  intro s r q rest hs hr hq hvalid
  have hq' : q.rst ≠ 1 := by rw [hq]; decide
  have hfirst := step_of_rst_one hs hr
  have hsecond := step_of_accepted (s := ⟨0, 0, q.drive :: rest⟩) rfl hq' hvalid
  exact ⟨run_succ hfirst 0, (run_succ hfirst 1).trans (run_succ hsecond 0)⟩

/-- Settles O35: neither branch of the edge rule asks what the registers hold. -/
theorem beforeTheFirstReset : Obligations.BeforeTheFirstReset := by
  unfold Obligations.BeforeTheFirstReset
  intro k i rest hrst
  have hne : (0 : Bit) ≠ 1 := by decide
  have hload := State.load_stimulus (State.powerUp k) (i.drive :: rest)
  exact ⟨fun hvalid => step_of_idle hload (hrst ▸ hne) (hvalid ▸ hne), step_of_accepted hload (hrst ▸ hne)⟩

end Sys2Proof.Machine

/-! PROOFS. The corner cases of GMUL, XTIME and MIXCOL, and the product in its other two forms (40_gf_multiply.md R80, R81, R83,
R84, 41_mixcolumns.md R102). -/

namespace Sys2Proof.Machine

/-! ### GMUL and XTIME -/

theorem zero_gfMul (a : Byte) : gfMul 0 a = 0 := by rw [gfMul_comm, gfMul_zero]

/-- Settles O19: the request branch of the edge rule, the products with 0, 1 and 2, and the rule's examples by computation. -/
theorem gmulRule : Obligations.GmulRule := by
  unfold Obligations.GmulRule
  have hrst : (0 : Bit) ≠ 1 := by decide
  refine ⟨fun s x y rest hs => step_of_accepted hs hrst rfl, fun a => ?_, fun a b => zext32_high _, by decide, by decide,
    by decide⟩
  exact ⟨zero_gfMul a, gfMul_zero a, gfMul_one a, one_gfMul a, gfMul_two a⟩

/-- Settles O22: XTIME drives a GMUL with second factor 2, whose product is the doubling. -/
theorem xtimeRule : Obligations.XtimeRule := by
  unfold Obligations.XtimeRule
  refine ⟨fun s x rest hs => ?_, gfMul_two, by decide, by decide, by decide, by decide⟩
  have hrst : (0 : Bit) ≠ 1 := by decide
  have hresult : execute 0 (zext32 x) 2 = (xtime x).setWidth 32 := by
    rw [execute_gmul, lowByte, zext32_low, gfMul_two, zext32]
  rw [← hresult]
  exact step_of_accepted hs hrst rfl

/-! ### MIXCOL -/

theorem lane_pack_const (i : Fin 4) (c : Byte) : lane i (pack c c c c) = c :=
  match i with
  | 0 => lane0_pack c c c c
  | 1 => lane1_pack c c c c
  | 2 => lane2_pack c c c c
  | 3 => lane3_pack c c c c

/-- A column of four equal Bytes is fixed: the two doublings cancel, and of the three copies one is left. -/
theorem mixCol_pack_const (c : Byte) : mixCol (pack c c c c) = pack c c c c := by
  have hcancel : xtime c ^^^ c ^^^ xtime c ^^^ c ^^^ c = c := by
    rw [BitVec.xor_comm (xtime c) c, BitVec.xor_assoc c, BitVec.xor_self, BitVec.xor_zero, BitVec.xor_self, BitVec.zero_xor]
  have hlane (i : Fin 4) : lane i (mixCol (pack c c c c)) = lane i (pack c c c c) := by
    rw [lane_mixCol, lane_pack_const, lane_pack_const, lane_pack_const, lane_pack_const, hcancel]
  exact word_ext_lanes (hlane 0) (hlane 1) (hlane 2) (hlane 3)

/-- Settles O20: the request branch of the edge rule, the fixed columns, and the rule's examples by computation. -/
theorem mixcolRule : Obligations.MixcolRule := by
  unfold Obligations.MixcolRule
  have hrst : (0 : Bit) ≠ 1 := by decide
  refine ⟨fun s x y rest hs => step_of_accepted hs hrst rfl, mixCol_pack_const, mixCol_pack_const 0x00, mixCol_pack_const 0xFF,
    mixCol_pack_const 0x80, by decide, by decide, by decide⟩

/-! ### The loop until `b` is zero -/

/-- The steps of R81 taken from the front, as the loop of R80 takes them. -/
theorem gfMulSteps_succ_front (n : Nat) (a b : Byte) :
    gfMulSteps (n + 1) a b = (if b.getLsbD 0 then a else 0) ^^^ gfMulSteps n (xtime a) (b >>> 1) := by
  induction n with
  | zero =>
    rw [gfMulSteps_succ, gfMulSteps_zero, gfMulSteps_zero]
    exact BitVec.zero_xor.trans BitVec.xor_zero.symm
  | succ n ih =>
    have hbit : (b >>> 1).getLsbD n = b.getLsbD (n + 1) := by rw [BitVec.getLsbD_ushiftRight, Nat.add_comm]
    rw [gfMulSteps_succ, ih, gfMulSteps_succ n (xtime a), hbit, BitVec.xor_assoc, Function.iterate_succ_apply]

theorem gfMulSteps_zero_right (n : Nat) (a : Byte) : gfMulSteps n a 0 = 0 := by
  induction n with
  | zero => rfl
  | succ n ih => rw [gfMulSteps_succ, ih]; simp

/-- A Byte has no bit for a ninth step to add. -/
theorem gfMulSteps_of_le {n : Nat} (hn : 8 ≤ n) (a b : Byte) : gfMulSteps n a b = gfMul a b := by
  induction n, hn using Nat.le_induction with
  | base => exact gfMulSteps_eight a b
  | succ n hn ih => rw [gfMulSteps_succ, ih, BitVec.getLsbD_of_ge b n hn]; simp

/-- One round of the loop with `b` not yet zero. -/
theorem gfMulLoop_succ_of_ne_zero (n : Nat) (p a : Byte) {b : Byte} (hb : b ≠ 0) :
    gfMulLoop (n + 1) p a b = gfMulLoop n (p ^^^ if b.getLsbD 0 then a else 0) (xtime a) (b >>> 1) := by
  have hadd : (if b.getLsbD 0 then p ^^^ a else p) = p ^^^ if b.getLsbD 0 then a else 0 := by
    split
    · rfl
    · exact BitVec.xor_zero.symm
  rw [gfMulLoop, if_neg hb, hadd, xtime]

/-- `n` rounds of the loop add what `n` fixed steps do. -/
theorem gfMulLoop_eq_xor_gfMulSteps (n : Nat) (p a b : Byte) : gfMulLoop n p a b = p ^^^ gfMulSteps n a b := by
  induction n generalizing p a b with
  | zero => rw [gfMulLoop, gfMulSteps_zero]; exact BitVec.xor_zero.symm
  | succ n ih =>
    by_cases hb : b = 0
    · rw [gfMulLoop, if_pos hb, hb, gfMulSteps_zero_right]
      exact BitVec.xor_zero.symm
    · rw [gfMulLoop_succ_of_ne_zero n p a hb, ih, gfMulSteps_succ_front, BitVec.xor_assoc]

/-- Settles O24: the loop and the steps agree round by round, and from the eighth on nothing is added. -/
theorem loopMeetsFixedSteps : Obligations.LoopMeetsFixedSteps := by
  unfold Obligations.LoopMeetsFixedSteps
  intro n a b hn
  rw [gfMulLoop_eq_xor_gfMulSteps, gfMulSteps_of_le hn]
  exact BitVec.zero_xor

/-! ### The polynomial product and its reduction -/

/-- The reduction by one term of R80's polynomial. -/
def polyModStep (r : BitVec 16) (i : Nat) : BitVec 16 := if r.getLsbD i then r ^^^ (0x11B#16 <<< (i - 8)) else r

theorem polyMod_eq_foldl (v : BitVec 16) : polyMod v = ([14, 13, 12, 11, 10, 9, 8].foldl polyModStep v).setWidth 8 := rfl

theorem polyModStep_xor (u v : BitVec 16) (i : Nat) : polyModStep (u ^^^ v) i = polyModStep u i ^^^ polyModStep v i := by
  have hcancel (k : BitVec 16) : u ^^^ k ^^^ (v ^^^ k) = u ^^^ v := by
    rw [BitVec.xor_comm v k, ← BitVec.xor_assoc, BitVec.xor_assoc u k k, BitVec.xor_self, BitVec.xor_zero]
  simp only [polyModStep, BitVec.getLsbD_xor]
  cases u.getLsbD i <;> cases v.getLsbD i
  · rfl
  · exact BitVec.xor_assoc _ _ _
  · simp only [Bool.xor_false, if_true]; ac_rfl
  · exact (hcancel _).symm

theorem foldl_polyModStep_xor (is : List Nat) (u v : BitVec 16) :
    is.foldl polyModStep (u ^^^ v) = is.foldl polyModStep u ^^^ is.foldl polyModStep v := by
  induction is generalizing u v with
  | nil => rfl
  | cons i is ih => rw [List.foldl_cons, polyModStep_xor, ih, List.foldl_cons, List.foldl_cons]

theorem polyMod_xor (u v : BitVec 16) : polyMod (u ^^^ v) = polyMod u ^^^ polyMod v := by
  rw [polyMod_eq_foldl, foldl_polyModStep_xor, BitVec.setWidth_xor, ← polyMod_eq_foldl, ← polyMod_eq_foldl]

theorem map_zero_of_map_xor {f : Byte → Byte} (hf : ∀ a b, f (a ^^^ b) = f a ^^^ f b) : f 0 = 0 := by
  have h := hf 0 0
  rwa [BitVec.xor_self, BitVec.xor_self] at h

/-- Two XOR-linear maps of Bytes agree where they agree on the powers of x. -/
theorem eq_of_eq_twoPow {f g : Byte → Byte} (hf : ∀ a b, f (a ^^^ b) = f a ^^^ f b) (hg : ∀ a b, g (a ^^^ b) = g a ^^^ g b)
    (hfg : ∀ k < 8, f (BitVec.twoPow 8 k) = g (BitVec.twoPow 8 k)) (a : Byte) : f a = g a := by
  have hsteps (n : Nat) (hn : n ≤ 8) : f (gfMulSteps n 1 a) = g (gfMulSteps n 1 a) := by
    induction n with
    | zero => rw [gfMulSteps_zero, map_zero_of_map_xor hf, map_zero_of_map_xor hg]
    | succ n ih =>
      rw [gfMulSteps_succ, hf, hg, ih (by omega), xtime_iterate_one n hn, apply_ite f, apply_ite g, hfg n hn,
        map_zero_of_map_xor hf, map_zero_of_map_xor hg]
  have h := hsteps 8 le_rfl
  rwa [gfMulSteps_eight, one_gfMul] at h

/-- Shifting by `n` and reducing is doubling `n` times. -/
theorem polyMod_shiftLeft {n : Nat} (hn : n < 8) (a : Byte) : polyMod (a.setWidth 16 <<< n) = xtime^[n] a := by
  have hbasis : ∀ n < 8, ∀ k < 8, polyMod ((BitVec.twoPow 8 k).setWidth 16 <<< n) = xtime^[n] (BitVec.twoPow 8 k) := by decide
  refine eq_of_eq_twoPow (f := fun a => polyMod (a.setWidth 16 <<< n)) (fun a b => ?_)
    (Function.Semiconj₂.iterate (op := (· ^^^ ·)) xtime_xor n) (hbasis n hn) a
  simp only [BitVec.setWidth_xor, BitVec.shiftLeft_xor_distrib, polyMod_xor]

/-- The polynomial product by the first `n` coefficients of `b`. -/
def polyMulSteps (n : Nat) (a b : Byte) : BitVec 16 :=
  (List.range n).foldl (fun p i => if b.getLsbD i then p ^^^ (a.setWidth 16 <<< i) else p) 0

theorem polyMulSteps_eight (a b : Byte) : polyMulSteps 8 a b = polyMul a b := rfl

theorem polyMulSteps_succ (n : Nat) (a b : Byte) :
    polyMulSteps (n + 1) a b = polyMulSteps n a b ^^^ if b.getLsbD n then a.setWidth 16 <<< n else 0 := by
  rw [polyMulSteps, List.range_succ, List.foldl_concat, ← polyMulSteps]
  split
  · rfl
  · exact BitVec.xor_zero.symm

/-- Reducing after every coefficient is what the fixed steps do. -/
theorem polyMod_polyMulSteps {n : Nat} (hn : n ≤ 8) (a b : Byte) : polyMod (polyMulSteps n a b) = gfMulSteps n a b := by
  have hzero : polyMod 0 = 0 := by decide
  induction n with
  | zero => exact hzero
  | succ n ih =>
    rw [polyMulSteps_succ, gfMulSteps_succ, polyMod_xor, ih (by omega), apply_ite polyMod, polyMod_shiftLeft hn, hzero]

/-- Settles O25: the eight coefficients of `b` and the eight fixed steps correspond. -/
theorem productIsPolynomialProduct : Obligations.ProductIsPolynomialProduct := by
  unfold Obligations.ProductIsPolynomialProduct
  intro a b
  rw [← polyMulSteps_eight, polyMod_polyMulSteps le_rfl, gfMulSteps_eight]

end Sys2Proof.Machine

/-! PROOFS. Circulant matrices over GF(2^8) multiply as polynomials modulo x^4 + 1, so the inverse matrix recovers every column
(41_mixcolumns.md R101, R104). -/

namespace Sys2Proof.Machine

/-- The circulant matrix with the given row at lane 0, applied to a column. -/
def circulant (k0 k1 k2 k3 : Byte) (w : Word) : Word :=
  pack (circulantRow k0 k1 k2 k3 0 w) (circulantRow k0 k1 k2 k3 1 w) (circulantRow k0 k1 k2 k3 2 w) (circulantRow k0 k1 k2 k3 3 w)

theorem invMixCol_eq_circulant (w : Word) : invMixCol w = circulant 0x0E 0x0B 0x0D 0x09 w := rfl

@[simp] theorem lane_circulant (k0 k1 k2 k3 : Byte) (i : Fin 4) (w : Word) :
    lane i (circulant k0 k1 k2 k3 w) = circulantRow k0 k1 k2 k3 i w :=
  match i with
  | 0 => lane0_pack _ _ _ _
  | 1 => lane1_pack _ _ _ _
  | 2 => lane2_pack _ _ _ _
  | 3 => lane3_pack _ _ _ _

theorem word_ext_lane {v w : Word} (h : ∀ i, lane i v = lane i w) : v = w := word_ext_lanes (h 0) (h 1) (h 2) (h 3)

theorem mixCol_eq_circulant (w : Word) : mixCol w = circulant 2 3 1 1 w :=
  word_ext_lane fun i => by rw [lane_circulant, lane_mixCol_eq_circulantRow]

/-- Two circulant matrices in a row are one, with the cyclic convolution of their coefficients. -/
theorem circulantRow_circulant (k0 k1 k2 k3 l0 l1 l2 l3 : Byte) (i : Fin 4) (w : Word) :
    circulantRow l0 l1 l2 l3 i (circulant k0 k1 k2 k3 w) =
      circulantRow (gfMul l0 k0 ^^^ gfMul l1 k3 ^^^ gfMul l2 k2 ^^^ gfMul l3 k1)
        (gfMul l0 k1 ^^^ gfMul l1 k0 ^^^ gfMul l2 k3 ^^^ gfMul l3 k2)
        (gfMul l0 k2 ^^^ gfMul l1 k1 ^^^ gfMul l2 k0 ^^^ gfMul l3 k3)
        (gfMul l0 k3 ^^^ gfMul l1 k2 ^^^ gfMul l2 k1 ^^^ gfMul l3 k0) i w := by
  simp only [circulantRow, lane_circulant, gfMul_xor_left, gfMul_xor_right, gfMul_assoc, add_assoc, Fin.reduceAdd, add_zero]
  ac_rfl

theorem circulantRow_identity (i : Fin 4) (w : Word) : circulantRow 1 0 0 0 i w = lane i w := by
  rw [circulantRow, one_gfMul, zero_gfMul, zero_gfMul, zero_gfMul]
  simp

/-- Settles O30: in either order the convolution of the two first rows is 1, 0, 0, 0. -/
theorem inverseMatrixRecovers : Obligations.InverseMatrixRecovers := by
  unfold Obligations.InverseMatrixRecovers
  intro c
  rw [mixCol_eq_circulant, mixCol_eq_circulant, invMixCol_eq_circulant, invMixCol_eq_circulant]
  refine ⟨word_ext_lane fun i => ?_, word_ext_lane fun i => ?_⟩
  · rw [lane_circulant, circulantRow_circulant]
    exact circulantRow_identity i c
  · rw [lane_circulant, circulantRow_circulant]
    exact circulantRow_identity i c

end Sys2Proof.Machine

/-! PROOFS. Several edges in a row: reset held, the premise of R150 kept, what is left of the past, and the responses
(20_memory.md R47, 70_reset_and_hazards.md R140, R143, R145, R148, R150). -/

namespace Sys2Proof.Machine

/-! ### Reset held -/

theorem observe_resetEdges (is : List Inputs) {s : State} {rest : List Drive} (hs : s.stimulus = is.map Inputs.drive ++ rest)
    (hrst : ∀ i ∈ is, i.rst = 1) : observe is.length s = List.replicate is.length ⟨0, 0⟩ := by
  induction is generalizing s with
  | nil => rfl
  | cons i is ih =>
    obtain ⟨hi, his⟩ := List.forall_mem_cons.mp hrst
    rw [List.length_cons, observe_succ (step_of_rst_one hs hi), ih rfl his, List.replicate_succ]
    rfl

/-- After one reset edge further ones only use up their drives. -/
theorem run_resetEdges (is : List Inputs) (rest : List Drive) (hrst : ∀ i ∈ is, i.rst = 1) :
    run is.length ⟨0, 0, is.map Inputs.drive ++ rest⟩ = .next ⟨0, 0, rest⟩ := by
  induction is with
  | nil => rfl
  | cons i is ih =>
    obtain ⟨hi, his⟩ := List.forall_mem_cons.mp hrst
    exact (run_succ (step_of_rst_one rfl hi) _).trans (ih his)

/-- Settles O33: the first reset edge clears the registers, the others keep them so. -/
theorem resetHeld : Obligations.ResetHeld := by
  unfold Obligations.ResetHeld
  intro s is rest hs hrst
  refine ⟨observe_resetEdges is hs hrst, fun hne => ?_⟩
  cases is with
  | nil => exact absurd rfl hne
  | cons i is =>
    obtain ⟨hi, his⟩ := List.forall_mem_cons.mp hrst
    exact (run_succ (step_of_rst_one hs hi) _).trans (run_resetEdges is rest his)

/-! ### What is left of the past -/

/-- Only an idle edge reads the registers. -/
theorem step_eq_of_not_idle {s s' : State} {d : Drive} {rest : List Drive} (hs : s.stimulus = d :: rest)
    (halike : s.stimulus = s'.stimulus) (hd : d.sample ≠ .idle) : step s = step s' := by
  have hconsume : s.consume.stimulus = s'.consume.stimulus := by simp [halike]
  rw [step_at_edge hs, step_at_edge (halike ▸ hs)]
  cases hsample : d.sample with
  | undefinedInput r => rfl
  | reset => exact congrArg Host.Outcome.next (State.ext_fields rfl rfl hconsume)
  | idle => exact absurd hsample hd
  | request req => exact congrArg Host.Outcome.next (State.ext_fields rfl rfl hconsume)

theorem run_succ_congr {s s' : State} (h : step s = step s') (k : Nat) : run (k + 1) s = run (k + 1) s' := by
  rw [run, run, h]

/-- Settles O36: over idle edges the states stay driven alike, and the first other edge makes them one. -/
theorem settledForgetsThePast : Obligations.SettledForgetsThePast := by
  unfold Obligations.SettledForgetsThePast
  intro s s' k halike hsettled
  induction k generalizing s s' with
  | zero => simp [State.settledWithin] at hsettled
  | succ k ih =>
    cases hs : s.stimulus with
    | nil => simp [State.settledWithin, hs] at hsettled
    | cons d rest =>
      by_cases hidle : d.sample = .idle
      · have hstep := step_at_edge hs
        have hstep' := step_at_edge (halike ▸ hs)
        rw [hidle] at hstep hstep'
        rw [run_succ hstep, run_succ hstep']
        refine ih _ _ (by simp [halike]) ?_
        simpa [State.settledWithin, hs, Drive.settles, hidle] using hsettled
      · exact run_succ_congr (step_eq_of_not_idle hs halike hidle) k

/-! ### Defined edges -/

/-- What an edge leaves on the outputs, read off its drive: the result of the request it accepted, or no response. -/
structure RespondsTo (d : Drive) (o : Outputs) : Prop where
  of_accepted : ∀ req, d.accepted = some req → o = ⟨1, resultOf (decode req)⟩
  of_not_accepted : d.accepted = none → o.outValid = 0

/-- An edge with defined inputs goes on, uses up its drive and responds to it. -/
theorem step_of_defined {s : State} {d : Drive} {rest : List Drive} (hs : s.stimulus = d :: rest) (hd : d.defined = true) :
    ∃ t, step s = .next t ∧ t.stimulus = rest ∧ RespondsTo d t.outputs := by
  have hstep := step_at_edge hs
  cases hsample : d.sample with
  | undefinedInput r => exact absurd hsample (sample_ne_undefinedInput hd r)
  | reset =>
    rw [hsample] at hstep
    exact ⟨_, hstep, by simp [hs], by simp [Drive.accepted, hsample], fun _ => rfl⟩
  | idle =>
    rw [hsample] at hstep
    exact ⟨_, hstep, by simp [hs], by simp [Drive.accepted, hsample], fun _ => rfl⟩
  | request req =>
    rw [hsample] at hstep
    refine ⟨_, hstep, by simp [hs], fun req' haccepted => ?_, by simp [Drive.accepted, hsample]⟩
    obtain rfl : req = req' := by simpa [Drive.accepted, hsample] using haccepted
    rfl

theorem State.driven_cons {s : State} {d : Drive} {rest : List Drive} (hs : s.stimulus = d :: rest) (h : s.driven) :
    d.defined = true ∧ ∀ d' ∈ rest, d'.defined = true := by
  rw [State.driven, hs] at h
  exact List.forall_mem_cons.mp h

/-- The next edge of a driven state, with the premise kept. -/
theorem step_of_driven {s : State} {d : Drive} {rest : List Drive} (hs : s.stimulus = d :: rest) (h : s.driven) :
    ∃ t, step s = .next t ∧ t.stimulus = rest ∧ t.driven ∧ RespondsTo d t.outputs := by
  obtain ⟨hd, hrest⟩ := State.driven_cons hs h
  obtain ⟨t, ht, htrest, hresponds⟩ := step_of_defined hs hd
  exact ⟨t, ht, htrest, by rwa [State.driven, htrest], hresponds⟩

/-- Settles O37: without an edge the state is kept, and an edge of a driven state keeps the later drives. -/
theorem drivenIsKept : Obligations.DrivenIsKept := by
  unfold Obligations.DrivenIsKept
  intro s h
  cases hs : s.stimulus with
  | nil => exact ⟨s, step_of_no_edge hs, h⟩
  | cons d rest =>
    obtain ⟨t, ht, -, hdriven, -⟩ := step_of_driven hs h
    exact ⟨t, ht, hdriven⟩

/-- Settles O38: no edge is scheduled. -/
theorem resetIsDriven : Obligations.ResetIsDriven := by
  unfold Obligations.ResetIsDriven State.driven
  exact List.forall_mem_nil _

/-! ### Responses -/

theorem acceptedRequests_cons (d : Drive) (rest : List Drive) :
    acceptedRequests (d :: rest) = d.accepted.toList ++ acceptedRequests rest := by
  rw [acceptedRequests, List.filterMap_cons]
  cases d.accepted <;> rfl

theorem responses_cons {s t : State} {d : Drive} (hs : s.stimulus = d :: t.stimulus) (ht : step s = .next t) :
    responses s = (if t.outValid = 1 then [t.outData] else []) ++ responses t := by
  rw [responses, hs, List.length_cons, observe_succ ht, List.filterMap_cons, State.outputs_outValid, State.outputs_outData]
  by_cases hv : t.outValid = 1
  · rw [if_pos hv, if_pos hv]
    rfl
  · rw [if_neg hv, if_neg hv]
    rfl

/-- The response the host sees after an edge is that of the request the edge accepted. -/
theorem RespondsTo.response_eq {d : Drive} {o : Outputs} (h : RespondsTo d o) :
    (if o.outValid = 1 then [o.outData] else []) = d.accepted.toList.map fun req => resultOf (decode req) := by
  cases haccepted : d.accepted with
  | none => rw [h.of_not_accepted haccepted]; rfl
  | some req => rw [h.of_accepted req haccepted]; rfl

/-- Settles O39, by induction on the schedule: each edge adds the response to its own request, or none. -/
theorem responsesInOrder : Obligations.ResponsesInOrder := by
  unfold Obligations.ResponsesInOrder
  intro s h
  induction hs : s.stimulus generalizing s with
  | nil => simp [responses, hs, observe, acceptedRequests]
  | cons d rest ih =>
    obtain ⟨t, ht, htrest, hdriven, hresponds⟩ := step_of_driven hs h
    rw [responses_cons (htrest ▸ hs) ht, ih t hdriven htrest, acceptedRequests_cons, List.map_append]
    exact congrArg (· ++ _) hresponds.response_eq

/-- Settles O40, by induction on the edge's number. -/
theorem responseAtItsEdge : Obligations.ResponseAtItsEdge := by
  unfold Obligations.ResponseAtItsEdge
  intro s n d h hd
  induction n generalizing s with
  | zero =>
    obtain ⟨rest, hs⟩ := List.head?_eq_some_iff.mp (List.head?_eq_getElem?.trans hd)
    obtain ⟨t, ht, -, -, hresponds⟩ := step_of_driven hs h
    rw [hs, List.length_cons, observe_succ ht]
    exact ⟨t.outputs, rfl, hresponds.of_accepted, hresponds.of_not_accepted⟩
  | succ n ih =>
    cases hs : s.stimulus with
    | nil => simp [hs] at hd
    | cons d' rest =>
      obtain ⟨t, ht, htrest, hdriven, -⟩ := step_of_driven hs h
      rw [hs, List.getElem?_cons_succ, ← htrest] at hd
      rw [List.length_cons, observe_succ ht, List.getElem?_cons_succ, ← htrest]
      exact ih t hdriven hd

/-- Over idle edges the result stays, not flagged. -/
theorem observe_idleEdges (idles : List Inputs) {s : State} {rest : List Drive}
    (hs : s.stimulus = idles.map Inputs.drive ++ rest) (hidle : ∀ i ∈ idles, i.rst = 0 ∧ i.inValid = 0) (k : Nat) :
    ∃ t : State, t.stimulus = rest ∧ observe (idles.length + k) s = List.replicate idles.length ⟨0, s.outData⟩ ++ observe k t := by
  induction idles generalizing s with
  | nil => exact ⟨s, hs, by simp⟩
  | cons i idles ih =>
    obtain ⟨⟨hrst, hvalid⟩, hidles⟩ := List.forall_mem_cons.mp hidle
    have hne : (0 : Bit) ≠ 1 := by decide
    have hstep := step_of_idle hs (hrst ▸ hne) (hvalid ▸ hne)
    obtain ⟨t, htrest, hobserve⟩ := ih (s := ⟨0, s.outData, _⟩) rfl hidles
    refine ⟨t, htrest, ?_⟩
    rw [List.length_cons, Nat.succ_add]
    exact (observe_succ hstep _).trans (congrArg _ hobserve)

/-- What a reset or a request leaves on the outputs. -/
theorem observe_settlingEdge {s : State} {i : Inputs} {rest : List Drive} (hs : s.stimulus = i.drive :: rest)
    (hi : i.rst = 1 ∨ i.inValid = 1) :
    observe 1 s = [if i.rst = 1 then ⟨0, 0⟩ else ⟨1, execute i.inOp i.inX i.inY⟩] := by
  split
  case isTrue hrst => rw [observe_succ (step_of_rst_one hs hrst)]; rfl
  case isFalse hrst => rw [observe_succ (step_of_accepted hs hrst (hi.resolve_left hrst))]; rfl

/-- Settles O41: the request's own edge, the idle edges, and the edge that replaces the result. -/
theorem resultWindow : Obligations.ResultWindow := by
  unfold Obligations.ResultWindow
  intro s req idles last rest hs hidle hlast
  obtain ⟨t, htrest, hobserve⟩ := observe_idleEdges idles (s := ⟨1, resultOf (decode req), _⟩) rfl hidle 1
  rw [observe_succ (step_of_requestDrive hs), hobserve, observe_settlingEdge htrest hlast]
  rfl

end Sys2Proof.Machine

/-! PROOFS. Several copies on one clock: a system's step is every copy's (10_state.md R20, R33, R34, 60_exceptions.md R127,
70_reset_and_hazards.md R150). -/

namespace Sys2Proof.Machine

/-! ### Start, and one worker's bundle on a port -/

/-- Settles O48: the registers of copy i are the i-th of the system's. -/
theorem systemStart : Obligations.SystemStart := by
  unfold Obligations.SystemStart
  intro n i
  refine ⟨State.ext_fields ?_ ?_ rfl, State.ext_fields ?_ ?_ rfl⟩ <;> simp [System.reset, System.powerUp, State.reset]

/-- Settles O49: one bundle is a request, none an idle edge, and more leave the operand ports undefined. -/
theorem oneBundlePerPort : Obligations.OneBundlePerPort := by
  unfold Obligations.OneBundlePerPort
  have hne : (0 : Bit) ≠ 1 := by decide
  refine ⟨fun s req => step_of_requestDrive (State.load_stimulus s _), fun s => ?_, fun s r1 r2 more => ?_⟩
  · exact step_of_idle (State.load_stimulus s _) hne hne
  · exact ⟨.undefinedRequest, step_at_edge (State.load_stimulus s _)⟩

/-! ### The system's step from its copies' -/

theorem step_next_or_refused (s : State) : (∃ t, step s = .next t) ∨ ∃ r, step s = .refused r :=
  match step s with
  | .next t => .inl ⟨t, rfl⟩
  | .fault r => nomatch r
  | .refused r => .inr ⟨r, rfl⟩

theorem System.step_refused_iff_refusals {n : Nat} (S : System n) : (∃ r, S.step = .refused r) ↔ S.refusals ≠ [] := by
  rw [System.step]
  cases S.refusals with
  | nil => simp
  | cons r rs => simp

/-- Settles O46: a system refuses unless every copy has a next state, and there is no reason to fault with. -/
theorem systemRefusal : Obligations.SystemRefusal := by
  unfold Obligations.SystemRefusal
  refine fun n S => ⟨?_, fun r => nomatch r⟩
  rw [System.step_refused_iff_refusals, ne_eq, refusals_eq_nil, not_forall]
  refine exists_congr fun i => ⟨fun hnone => (step_next_or_refused _).resolve_left hnone, ?_⟩
  rintro ⟨r, hr⟩ ⟨t, ht⟩
  rw [hr] at ht
  cases ht

theorem System.view_outputs {n : Nat} (S : System n) (i : Fin n) : (S.view i).outputs = S.outputs[i] := rfl

/-- A system steps to `T` exactly if each copy steps to its part of `T` and one edge is used up. -/
theorem System.step_eq_next_iff {n : Nat} (S T : System n) :
    S.step = .next T ↔ (∀ i, Machine.step (S.view i) = .next (T.view i)) ∧ T.stimulus = S.stimulus.tail := by
  constructor
  case mp =>
    intro h
    rw [System.step] at h
    split at h
    case h_1 => cases h
    case h_2 hnil =>
      obtain rfl := Host.Outcome.next.inj h
      refine ⟨fun i => ?_, rfl⟩
      obtain ⟨t, ht⟩ := (refusals_eq_nil S).mp hnil i
      rw [ht]
      refine congrArg Host.Outcome.next (State.ext_fields ?_ ?_ ?_)
      · simp [ht, outputsAfter]
      · simp [ht, outputsAfter]
      · simp [step_stimulus ht, List.map_tail]
  case mpr =>
    rintro ⟨hcopies, htail⟩
    have hnil : S.refusals = [] := (refusals_eq_nil S).mpr fun i => ⟨_, hcopies i⟩
    have houtputs : (Vector.ofFn fun i : Fin n => outputsAfter (Machine.step (S.view i)) S.outputs[i]) = T.outputs := by
      ext1 i hi
      rw [Vector.getElem_ofFn, hcopies ⟨i, hi⟩]
      rfl
    rw [System.step, hnil, ← htail]
    exact congrArg (fun o => Host.Outcome.next (System.mk o T.stimulus)) houtputs

/-- With a copy to look at, the drives of all copies fix the system's schedule. -/
theorem stimulus_ext {n : Nat} (hn : 0 < n) {l l' : List (Vector Drive n)}
    (h : ∀ i : Fin n, l.map (fun ds => ds[i]) = l'.map fun ds => ds[i]) : l = l' := by
  have hlength : l.length = l'.length := by simpa using congrArg List.length (h ⟨0, hn⟩)
  refine List.ext_getElem hlength fun k hk hk' => ?_
  ext1 i hi
  have hget := congrArg (fun ds => ds[k]?) (h ⟨i, hi⟩)
  simpa [hk, hk'] using hget

/-- Settles O44: with at least one copy, the copies' parts hold the system's schedule too. -/
theorem systemIsItsCopies : Obligations.SystemIsItsCopies := by
  unfold Obligations.SystemIsItsCopies
  intro n S T hn
  rw [System.step_eq_next_iff, and_iff_left_iff_imp]
  intro hcopies
  refine stimulus_ext (of_decide_eq_true hn) fun i => ?_
  rw [← System.view_stimulus, step_stimulus (hcopies i), System.view_stimulus, List.map_tail]

/-- Settles O45: either system's step is the copy's own. -/
theorem copiesShareNothing : Obligations.CopiesShareNothing := by
  unfold Obligations.CopiesShareNothing
  intro n S S' T T' i hview hT hT'
  obtain ⟨hcopies, -⟩ := (System.step_eq_next_iff S T).mp hT
  obtain ⟨hcopies', -⟩ := (System.step_eq_next_iff S' T').mp hT'
  exact Host.Outcome.next.inj ((hcopies i).symm.trans ((congrArg step hview).trans (hcopies' i)))

/-! ### Defined edges of a system -/

/-- The next edge of a system with defined inputs for every copy goes on, and each copy responds to its own drive. -/
theorem System.step_of_defined {n : Nat} {S : System n} {ds : Vector Drive n} {rest : List (Vector Drive n)}
    (hS : S.stimulus = ds :: rest) (hds : ∀ i : Fin n, ds[i].defined = true) :
    ∃ T, S.step = .next T ∧ T.stimulus = rest ∧ ∀ i : Fin n, RespondsTo ds[i] T.outputs[i] := by
  have hview (i : Fin n) : (S.view i).stimulus = ds[i] :: rest.map fun ds => ds[i] := by rw [System.view_stimulus, hS]; rfl
  choose t ht _ hresponds using fun i => Machine.step_of_defined (hview i) (hds i)
  have hnil : S.refusals = [] := (refusals_eq_nil S).mpr fun i => ⟨t i, ht i⟩
  obtain ⟨T, hT⟩ : ∃ T, S.step = .next T := by rw [System.step, hnil]; exact ⟨_, rfl⟩
  obtain ⟨hcopies, htail⟩ := (System.step_eq_next_iff S T).mp hT
  refine ⟨T, hT, by rw [htail, hS, List.tail_cons], fun i => ?_⟩
  have hti : t i = T.view i := Host.Outcome.next.inj ((ht i).symm.trans (hcopies i))
  rw [← System.view_outputs, ← hti]
  exact hresponds i

/-- The next edge of a driven system, with the premise kept. -/
theorem System.step_of_driven {n : Nat} {S : System n} {ds : Vector Drive n} {rest : List (Vector Drive n)}
    (hS : S.stimulus = ds :: rest) (h : S.driven) :
    ∃ T, S.step = .next T ∧ T.stimulus = rest ∧ T.driven ∧ ∀ i : Fin n, RespondsTo ds[i] T.outputs[i] := by
  rw [System.driven, hS] at h
  obtain ⟨hds, hrest⟩ := List.forall_mem_cons.mp h
  obtain ⟨T, hT, hTrest, hresponds⟩ := System.step_of_defined hS hds
  exact ⟨T, hT, hTrest, by rwa [System.driven, hTrest], hresponds⟩

/-- Without an edge every copy is held, so the system is. -/
theorem System.step_of_no_edge {n : Nat} {S : System n} (hS : S.stimulus = []) : S.step = .next S := by
  have hview (i : Fin n) : (S.view i).stimulus = [] := by rw [System.view_stimulus, hS, List.map_nil]
  exact (System.step_eq_next_iff S S).mpr ⟨fun i => Machine.step_of_no_edge (hview i), by rw [hS, List.tail_nil]⟩

/-- Settles O47: without an edge the system is kept, and an edge of a driven system keeps the later drives. -/
theorem systemDrivenIsKept : Obligations.SystemDrivenIsKept := by
  unfold Obligations.SystemDrivenIsKept
  intro n S h
  cases hS : S.stimulus with
  | nil => exact ⟨S, System.step_of_no_edge hS, h⟩
  | cons ds rest =>
    obtain ⟨T, hT, -, hdriven, -⟩ := System.step_of_driven hS h
    exact ⟨T, hT, hdriven⟩

end Sys2Proof.Machine

/-! PROOFS. The host's side: the matrix procedure on one copy and on several, and a batch of matrices (41_mixcolumns.md R106 to R108,
70_reset_and_hazards.md R149). -/

namespace Sys2Proof.Machine

/-! ### The result matrix -/

/-- The transformed column j of `m`, as the host receives it. -/
def Matrix.mixedColumn (m : Matrix) (j : Fin 4) : Word := mixCol (m.column j)

/-- The host's matrix `t` after the results of the columns `js` of `m` are stored in turn. -/
def storeMixed (m t : Matrix) (js : List (Fin 4)) : Matrix := js.foldl (fun t j => t.writeColumn j (m.mixedColumn j)) t

theorem storeMixed_cons (m t : Matrix) (j : Fin 4) (js : List (Fin 4)) :
    storeMixed m t (j :: js) = storeMixed m (t.writeColumn j (m.mixedColumn j)) js := rfl

theorem storeMixed_append (m t : Matrix) (js ks : List (Fin 4)) :
    storeMixed m t (js ++ ks) = storeMixed m (storeMixed m t js) ks := List.foldl_append

/-- A column that was stored holds its result, and every other column is as it was. -/
theorem entry_storeMixed (m t : Matrix) (js : List (Fin 4)) (i k : Fin 4) :
    (storeMixed m t js).entry i k = if k ∈ js then lane i (m.mixedColumn k) else t.entry i k := by
  induction js generalizing t with
  | nil => simp [storeMixed]
  | cons j js ih =>
    rw [storeMixed_cons, ih, entry_writeColumn]
    by_cases hjs : k ∈ js
    · simp [hjs]
    · by_cases hj : k = j
      · simp [hj]
      · simp [hj, hjs]

theorem lane_column (m : Matrix) (i j : Fin 4) : lane i (m.column j) = m.entry i j :=
  match i with
  | 0 => lane0_pack _ _ _ _
  | 1 => lane1_pack _ _ _ _
  | 2 => lane2_pack _ _ _ _
  | 3 => lane3_pack _ _ _ _

/-- Once every column is stored each byte is the circulant form over its own column of `m`. -/
theorem entry_storeMixed_of_perm (m t : Matrix) {js : List (Fin 4)} (hjs : js.Perm [0, 1, 2, 3]) (i j : Fin 4) :
    (storeMixed m t js).entry i j =
      gfMul 2 (m.entry i j) ^^^ gfMul 3 (m.entry (i + 1) j) ^^^ m.entry (i + 2) j ^^^ m.entry (i + 3) j := by
  have hall : ∀ j : Fin 4, j ∈ [0, 1, 2, 3] := by decide
  rw [entry_storeMixed, if_pos (hjs.mem_iff.mpr (hall j)), Matrix.mixedColumn, lane_mixCol_eq_gfMul, lane_column, lane_column,
    lane_column, lane_column]

/-! ### The drives of the procedure -/

theorem defined_inputs_drive (i : Inputs) : i.drive.defined = true := by simp [Drive.defined, Inputs.drive]

theorem accepted_mixcolWord (c : Word) : (assemble (.mixcolWord c)).drive.accepted = some (bundleOf 1 0 c) := rfl

/-- The response to a column request. -/
theorem RespondsTo.mixcolWord {c : Word} {o : Outputs} (h : RespondsTo (assemble (.mixcolWord c)).drive o) :
    o = ⟨1, mixCol c⟩ := by
  rw [h.of_accepted _ (accepted_mixcolWord c), resultOf_decode_bundleOf, execute_mixcol]

theorem defined_plannedDrive (m : Matrix) (jo : Option (Fin 4)) : (plannedDrive m jo).defined = true := by
  cases jo <;> exact defined_inputs_drive _

/-! ### On one copy -/

/-- The first request's result is stored, and the copy goes on with the other requests. -/
theorem hostTransform_cons (m : Matrix) (j : Fin 4) (order : List (Fin 4)) (s : State) (t : Matrix) :
    ∃ s', hostTransform m (j :: order) s t = hostTransform m order s' (t.writeColumn j (m.mixedColumn j)) := by
  obtain ⟨s', hstep, hrest, hresponds⟩ :=
    step_of_defined (State.load_stimulus s (matrixRequests m (j :: order))) (defined_inputs_drive _)
  have hload : s'.load (matrixRequests m order) = s' := State.ext_fields rfl rfl hrest.symm
  refine ⟨s', ?_⟩
  rw [hostTransform, List.length_cons, observe_succ hstep, hresponds.mixcolWord, hostTransform, hload]
  rfl

theorem hostTransform_eq_storeMixed (m : Matrix) (order : List (Fin 4)) (s : State) (t : Matrix) :
    hostTransform m order s t = storeMixed m t order := by
  induction order generalizing s t with
  | nil => rfl
  | cons j order ih =>
    obtain ⟨s', hcons⟩ := hostTransform_cons m j order s t
    rw [hcons, ih, storeMixed_cons]

/-- Settles O42: the procedure stores each column of the order once. -/
theorem matrixProcedure : Obligations.MatrixProcedure := by
  unfold Obligations.MatrixProcedure
  intro m t order s horder i j
  rw [hostTransform_eq_storeMixed, entry_storeMixed_of_perm m t horder]

/-! ### On several copies -/

/-- Where the responses are the transformed columns, exactly those are stored. -/
theorem foldl_storePlanned (m t : Matrix) (row : List (Option (Fin 4) × Outputs))
    (hrow : ∀ j o, (some j, o) ∈ row → o.outData = m.mixedColumn j) :
    row.foldl storePlanned t = storeMixed m t (row.filterMap Prod.fst) := by
  induction row generalizing t with
  | nil => rfl
  | cons jo row ih =>
    have hlater j o (hmem : (some j, o) ∈ row) : o.outData = m.mixedColumn j := hrow j o (List.mem_cons_of_mem _ hmem)
    obtain ⟨_ | j, o⟩ := jo
    · exact ih t hlater
    · rw [List.foldl_cons, storePlanned_some, hrow j o List.mem_cons_self, ih _ hlater]
      rfl

/-- After an edge at which each copy answered what it was asked, the row's columns are stored. -/
theorem collectEdge_eq_storeMixed {n : Nat} (m t : Matrix) (row : Vector (Option (Fin 4)) n) (seen : Vector Outputs n)
    (hseen : ∀ (i : Fin n) (j : Fin 4), row[i] = some j → seen[i].outData = m.mixedColumn j) :
    collectEdge t row seen = storeMixed m t (row.toList.filterMap id) := by
  have hcols : (row.toList.zip seen.toList).filterMap Prod.fst = row.toList.filterMap id :=
    calc (row.toList.zip seen.toList).filterMap Prod.fst
      _ = ((row.toList.zip seen.toList).map Prod.fst).filterMap id := (List.filterMap_map (g := id)).symm
      _ = row.toList.filterMap id := by rw [List.map_fst_zip (by simp)]
  rw [collectEdge, foldl_storePlanned m, hcols]
  · intro j o hmem
    obtain ⟨i, hi, hget⟩ := List.mem_iff_getElem.mp hmem
    have hin : i < n := by simpa using hi
    simp only [List.getElem_zip, Vector.getElem_toList, Prod.mk.injEq] at hget
    obtain ⟨hj, rfl⟩ := hget
    exact hseen ⟨i, hin⟩ j hj

/-- The first row's results are stored, and the system goes on with the other rows. -/
theorem hostTransformOn_cons {n : Nat} (m : Matrix) (row : Vector (Option (Fin 4)) n) (plan : ColumnPlan n) (S : System n)
    (t : Matrix) :
    ∃ S', hostTransformOn m (row :: plan) S t = hostTransformOn m plan S' (storeMixed m t (row.toList.filterMap id)) := by
  have hdefined (i : Fin n) : (row.map (plannedDrive m))[i].defined = true := by simpa using defined_plannedDrive m row[i]
  obtain ⟨S', hstep, hrest, hresponds⟩ :=
    System.step_of_defined (System.load_stimulus S (planRequests m (row :: plan))) hdefined
  have hload : S'.load (planRequests m plan) = S' := congrArg (System.mk S'.outputs) hrest.symm
  have hseen (i : Fin n) (j : Fin 4) (hj : row[i] = some j) : S'.outputs[i].outData = m.mixedColumn j := by
    have hi : RespondsTo (plannedDrive m (some j)) S'.outputs[i] := by simpa [← hj] using hresponds i
    rw [hi.mixcolWord, Matrix.mixedColumn]
  refine ⟨S', ?_⟩
  rw [hostTransformOn, List.length_cons, System.observe_succ hstep, hostTransformOn, hload,
    ← collectEdge_eq_storeMixed m t row _ hseen]
  rfl

theorem hostTransformOn_eq_storeMixed {n : Nat} (m : Matrix) (plan : ColumnPlan n) (S : System n) (t : Matrix) :
    hostTransformOn m plan S t = storeMixed m t (planColumns plan) := by
  induction plan generalizing S t with
  | nil => rfl
  | cons row plan ih =>
    obtain ⟨S', hcons⟩ := hostTransformOn_cons m row plan S t
    rw [hcons, ih, ← storeMixed_append]
    rfl

/-- Settles O50: the procedure stores each column of the plan once. -/
theorem matrixOnCopies : Obligations.MatrixOnCopies := by
  unfold Obligations.MatrixOnCopies
  intro n m t plan S hplan i j
  rw [hostTransformOn_eq_storeMixed, entry_storeMixed_of_perm m t hplan]

/-! ### A batch -/

/-- Any scheduled edge of a driven system is reached, and after it each copy has responded to its own drive. -/
theorem System.run_responds {n : Nat} (e : Nat) {S : System n} {ds : Vector Drive n} (h : S.driven)
    (hds : S.stimulus[e]? = some ds) :
    ∃ T, System.run (e + 1) S = .next T ∧ ∀ i : Fin n, RespondsTo ds[i] T.outputs[i] := by
  induction e generalizing S with
  | zero =>
    obtain ⟨rest, hS⟩ := List.head?_eq_some_iff.mp (List.head?_eq_getElem?.trans hds)
    obtain ⟨T, hT, -, -, hresponds⟩ := System.step_of_driven hS h
    exact ⟨T, by simp [System.run, hT], hresponds⟩
  | succ e ih =>
    cases hS : S.stimulus with
    | nil => simp [hS] at hds
    | cons ds' rest =>
      obtain ⟨T, hT, hTrest, hdriven, -⟩ := System.step_of_driven hS h
      rw [hS, List.getElem?_cons_succ, ← hTrest] at hds
      rw [System.run, hT]
      exact ih hdriven hds

theorem length_batchStimulus (n : Nat) (cols : List Word) : (batchStimulus n cols).length = batchEdges n cols.length := by
  rw [batchStimulus, List.length_map, List.length_range]

theorem length_batchColumns (ms : List Matrix) : (batchColumns ms).length = 4 * ms.length := by
  induction ms with
  | nil => rfl
  | cons m ms ih =>
    have hsplit : batchColumns (m :: ms) = [m.column 0, m.column 1, m.column 2, m.column 3] ++ batchColumns ms := rfl
    rw [hsplit, List.length_append, ih]
    exact Nat.add_comm 4 _

/-- A column's edge lies within the edges of the batch. -/
theorem lt_batchEdges {n e i c : Nat} (hn : 0 < n) (h : e * n + i < c) : e < batchEdges n c := by
  rw [batchEdges, ← Nat.succ_le_iff, Nat.le_div_iff_mul_le hn, Nat.succ_mul]
  omega

theorem defined_batchEdge (n : Nat) (cols : List Word) (e : Nat) (i : Fin n) : (batchEdge n cols e)[i].defined = true := by
  simp only [batchEdge, Fin.getElem_fin, Vector.getElem_ofFn]
  split <;> exact defined_inputs_drive _

theorem batchEdge_of_column {n : Nat} {cols : List Word} {e : Nat} {i : Fin n} {c : Word} (hc : cols[e * n + i.val]? = some c) :
    (batchEdge n cols e)[i] = (assemble (.mixcolWord c)).drive := by
  simp [batchEdge, hc]

/-- Settles O43: the schedule has ceil(4N / n) edges, and edge e asks copy i for column e * n + i. -/
theorem batchOnCopies : Obligations.BatchOnCopies := by
  unfold Obligations.BatchOnCopies
  intro n ms hn
  refine ⟨by rw [length_batchStimulus, length_batchColumns, batchEdges], fun S e i c hc => ?_⟩
  have hdriven : System.driven { S with stimulus := batchStimulus n (batchColumns ms) } := fun ds hds i => by
    obtain ⟨e, -, rfl⟩ := List.mem_map.mp hds
    exact defined_batchEdge n _ e i
  obtain ⟨hlt, -⟩ := List.getElem?_eq_some_iff.mp hc
  have hedge : (batchStimulus n (batchColumns ms))[e]? = some (batchEdge n (batchColumns ms) e) := by
    rw [batchStimulus, List.getElem?_map, List.getElem?_range (lt_batchEdges (of_decide_eq_true hn) hlt), Option.map_some]
  obtain ⟨T, hT, hresponds⟩ := System.run_responds e hdriven hedge
  have hi := hresponds i
  rw [batchEdge_of_column hc] at hi
  exact ⟨T, hT, hi.mixcolWord⟩

end Sys2Proof.Machine
